-- ==== Sys2Proof/Word.lean ====
section
/-! DEFINITION. The word and byte types of the machine (00_scope.md R10): unsigned bit vectors of fixed width. -/

namespace Sys2Proof

/-- A word: 16 bits, unsigned (R10). Addresses, registers, operands and flags are words. -/
abbrev Word := BitVec 16

/-- A byte: 8 bits, the unit of memory (R10, R20). -/
abbrev Byte := BitVec 8

end Sys2Proof
end

