-- ==== Sys2Proof/Config.lean ====
section
/-! DEFINITION. The open parameters of 00_scope.md R8 that a value of the machine depends on: constants without a body, so
that no proof can know them. -/

namespace Sys2Proof

/-- IR_OVERFLOW_CODE (R8, D19): the interrupt code of a code-pointer overrun. Free: named by the spec, never numbered
(log 5). -/
opaque Config.irOverflowCode : Word

/-- IR_OVERFLOW_STACK (R8, D19): the interrupt code of a stack overflow. Free, and not assumed to differ from the other
(log 5). -/
opaque Config.irOverflowStack : Word

/-- PALETTE_INIT (R8, D21): the byte that boot leaves at 0x1F00 + k, for k = 0 .. 15. Free (log 4). -/
opaque Config.paletteInit : Nat → Byte

end Sys2Proof
end

