-- ==== Sys2Proof/Machine/Bytes.lean ====
section
/-! DEFINITION. The two bytes of a word and their order (00_scope.md R11, 20_memory.md R54, 30_encoding.md R71). -/

namespace Sys2Proof.Machine

/-- Bits 15..8 of a word: the byte at the lower address, and the mode of a header (R11, R71). -/
def highByte (w : Word) : Byte := w.extractLsb' 8 8

/-- Bits 7..0 of a word: the byte at the higher address, and the opcode of a header (R11, R71). -/
def lowByte (w : Word) : Byte := w.extractLsb' 0 8

/-- `hi ++ lo` of R11: the word whose high byte is `hi`. -/
def joinBytes (hi lo : Byte) : Word := hi ++ lo

/-- The bytes of a word sequence in memory order, each word big-endian (R54, R70). -/
def wordBytes : List Word → List Byte
  | [] => []
  | w :: ws => highByte w :: lowByte w :: wordBytes ws

/-- The true integer result cut to 16 bits, `trunc16` of R10: t mod 65536, for a negative t as well. -/
def trunc16 (t : Int) : Word := BitVec.ofInt 16 t

end Sys2Proof.Machine
end

