-- ==== Sys2Proof/Machine/Layout.lean ====
section
/-! DEFINITION. The fixed byte addresses and word values of 00_scope.md R7 and 20_memory.md R60. -/

namespace Sys2Proof.Machine

/-- CODE_POINTER, the word that holds the address of the next word to fetch (R22). -/
def cpCell : Word := 0x0000
/-- STACK_POINTER (R23). -/
def spCell : Word := 0x0002
/-- ZERO_FLAG (R24). -/
def zfCell : Word := 0x0004
/-- CARRY_FLAG (R25). -/
def cfCell : Word := 0x0006
/-- General register AX (R26). -/
def axCell : Word := 0x0008
/-- General register BX (R26, D36). -/
def bxCell : Word := 0x000A
/-- General register CX (R26, D36). -/
def cxCell : Word := 0x000C
/-- General register DX, at 0x000E by decision D1 (R27, log 8). -/
def dxCell : Word := 0x000E
/-- INTERRUPT, the last delivered code (R28). -/
def interruptCell : Word := 0x0010
/-- IR_STATE handler pointer (R29). -/
def irStateCell : Word := 0x0012
/-- IR_KEYBOARD handler pointer (R29). -/
def irKeyboardCell : Word := 0x0014
/-- IR_OVERFLOW handler pointer (R29). -/
def irOverflowCell : Word := 0x0016

/-- MEM_SIZE: the number of bytes of the one memory (R20). -/
def memSize : Nat := 0x10000
/-- STACK_BASE (R30). -/
def stackBase : Word := 0x0100
/-- STACK_MAX - 2, the highest SP a push may leave (R113, D9). -/
def stackLimit : Nat := 0x01FD
/-- OUT_CHARS, the first byte of the slice the display is given (R31, R117). -/
def outChars : Nat := 0x1000
/-- OUT_COLORS, the first palette byte (R31). -/
def outColors : Nat := 0x1F00
/-- OUT_MODE, the first byte after the slice the display is given (R31, R117). -/
def outMode : Nat := 0x1FFE
/-- CODE_BASE, the load address of the image and the first CP (R32). -/
def codeBase : Nat := 0x2000
/-- MAX_MEMORY - 2: a fetch with CP above it is a code-pointer overrun (R101, D11). -/
def fetchLimit : Nat := 0xFFFD
/-- HLT_WORD, the halt sentinel an overrunning fetch returns (R101, D11, D23). -/
def haltWord : Word := 0x0016
/-- The number of bytes PALETTE_INIT covers from OUT_COLORS (R38, D21). -/
def paletteSize : Nat := 16

end Sys2Proof.Machine
end

