-- ==== Sys2Proof/Machine/Memory.lean ====
section
/-! DEFINITION. The one memory (10_state.md R20, 20_memory.md R50 to R54): a list of (address, byte) cells in one
canonical form over the boot contents, and the sixteen palette bytes, whose boot value is open. -/

namespace Sys2Proof.Machine

/-- The memory. `cells` lists the bytes that differ from the boot contents, addresses strictly rising; the sixteen palette
bytes 0x1F00..0x1F0F stand in `palette`, because no listing can leave out a byte whose boot value is a free parameter
(R8, D21, log 4). -/
structure Memory where
  cells : List Host.Cell
  palette : Vector Byte 16
  deriving DecidableEq, Repr

/-- The words boot writes over zeroed memory (R38, R210): CP, SP, INTERRUPT, OUT_MODE and the HLT sentinel. -/
def bootWords : List (Nat × Word) :=
  [(0x0000, 0x2000), (0x0002, 0x0100), (0x0010, 0xFFFF), (0x1FFE, 0x0001), (0x2000, 0x0016)]

/-- The byte at `a` of the words listed, 0x00 where none covers it. -/
def bootByteOf : List (Nat × Word) → Nat → Byte
  | [], _ => 0x00
  | (p, w) :: rest, a => if a = p then highByte w else if a = p + 1 then lowByte w else bootByteOf rest a

/-- What an address that `cells` does not list reads as: its content after boot, before the image is copied (R38). -/
def bootByte (a : Nat) : Byte := bootByteOf bootWords a

/-- Which of the sixteen palette bytes an address is, if any (R38, D21). -/
def paletteIndex (a : Nat) : Option (Fin 16) :=
  if h : outColors ≤ a ∧ a < outColors + 16 then some ⟨a - outColors, by have := h.1; have := h.2; omega⟩ else none

/-- The byte listed for `a`, or its boot content. -/
def lookupCell : List Host.Cell → Nat → Byte
  | [], a => bootByte a
  | (b, v) :: rest, a => if b = a then v else lookupCell rest a

/-- The cells without any entry for `a`. -/
def dropCell (a : Nat) (cells : List Host.Cell) : List Host.Cell := cells.filter (fun c => c.1 ≠ a)

/-- The cells with an entry put before the first higher address. -/
def insertCell (a : Nat) (v : Byte) : List Host.Cell → List Host.Cell
  | [] => [(a, v)]
  | (b, w) :: rest => if a < b then (a, v) :: (b, w) :: rest else (b, w) :: insertCell a v rest

/-- The cells with `v` at `a`: no entry where `v` is the boot content. -/
def storeCell (a : Nat) (v : Byte) (cells : List Host.Cell) : List Host.Cell :=
  if v = bootByte a then dropCell a cells else insertCell a v (dropCell a cells)

/-- `in_range(a)` of R53: the array has a byte at `a`, that is, `a < size` with size 65 536. -/
abbrev inRange (a : Nat) : Prop := a < memSize

/-- `M[a]` of R12: the byte at an address. -/
def Memory.byteAt (m : Memory) (a : Nat) : Byte :=
  match paletteIndex a with
  | some k => m.palette[k]
  | none => lookupCell m.cells a

/-- `M[a] <- v` of R52: one byte stored. The array has no byte at an address out of range (R20, R53). -/
def Memory.setByte (m : Memory) (a : Nat) (v : Byte) : Memory :=
  match paletteIndex a with
  | some k => { m with palette := m.palette.set k v }
  | none => if inRange a then { m with cells := storeCell a v m.cells } else m

/-- `M[a] ++ M[a+1]` of R50: the big-endian word at an address. -/
def Memory.wordAt (m : Memory) (a : Nat) : Word := joinBytes (m.byteAt a) (m.byteAt (a + 1))

/-- The two byte stores of R51, the high byte at the lower address. -/
def Memory.setWord (m : Memory) (a : Nat) (w : Word) : Memory :=
  (m.setByte a (highByte w)).setByte (a + 1) (lowByte w)

/-- `segment(from, to)` of R53: the bytes `M[from] .. M[to-1]`. -/
def Memory.segment (m : Memory) (start stop : Nat) : List Byte :=
  (List.range (stop - start)).map fun k => m.byteAt (start + k)

/-- Bytes stored one after another in ascending order (R211). -/
def Memory.setBytes (m : Memory) (a : Nat) : List Byte → Memory
  | [] => m
  | v :: vs => (m.setByte a v).setBytes (a + 1) vs

/-- The canonical form: addresses strictly rising, each inside the array and none a palette byte, and no entry equal to
what an unlisted address reads as. -/
abbrev Memory.wf (m : Memory) : Prop :=
  m.cells.Pairwise (fun c d => c.1 < d.1) ∧
    ∀ c ∈ m.cells, inRange c.1 ∧ paletteIndex c.1 = none ∧ c.2 ≠ bootByte c.1

/-- Memory after boot, before the image is copied: nothing listed, the palette bytes free (R38). -/
def Memory.atReset : Memory where
  cells := []
  palette := #v[Config.paletteInit 0, Config.paletteInit 1, Config.paletteInit 2, Config.paletteInit 3,
    Config.paletteInit 4, Config.paletteInit 5, Config.paletteInit 6, Config.paletteInit 7,
    Config.paletteInit 8, Config.paletteInit 9, Config.paletteInit 10, Config.paletteInit 11,
    Config.paletteInit 12, Config.paletteInit 13, Config.paletteInit 14, Config.paletteInit 15]

end Sys2Proof.Machine
end

