-- ==== Sys2Proof/Machine/State.lean ====
section
/-! DEFINITION. The machine's state (10_state.md), the reasons a step can stop, and the state after boot (R38). Every
register is a word of memory (R21), so the state names no register field: the accessors stand in Machine/Ops.lean. -/

namespace Sys2Proof.Machine

/-- The handler pointer cell a record names (R34): `reason ∈ {IR_STATE, IR_KEYBOARD, IR_OVERFLOW}`. No other reason is a
legal input (U22). -/
inductive Reason where
  | irState
  | irKeyboard
  | irOverflow
  deriving DecidableEq, Repr

/-- One interrupt record (R34, R181): a code, any word, and the reason. -/
structure Record where
  code : Word
  reason : Reason
  deriving DecidableEq, Repr

/-- What the outside world can do to a running machine (R181, R198, R201): append a record, or close the queue. -/
inductive HostEvent where
  | enqueue (r : Record)
  | close
  deriving DecidableEq, Repr

/-- What arrives during one cycle (D28): before its step 1, and after its step 3 but before its step 4. The two lists
order the arrivals against a record the cycle itself enqueues (R104). -/
structure CycleInput where
  early : List HostEvent
  late : List HostEvent
  deriving DecidableEq, Repr

/-- The latches of the core loop (R33). They are rewritten in every cycle before any use. -/
structure Latches where
  nextWord : Word
  mode : Byte
  opcode : Byte
  arg0 : Word
  arg1 : Word
  deriving DecidableEq, Repr

/-- The kinds of fatal error and what each records (60_exceptions.md R190). All are safe: the model stops where the spec
ends the run. -/
inductive FatalKind where
  /-- A word access at address 0xFFFF, raised by any read or write of an instruction's execute phase or of interrupt
  delivery (R55). Safe. -/
  | outOfRange (a : Word)
  /-- A push with SP + 2 above 0x01FD, raised by PUSH, CALL and interrupt delivery (R113, R189). Safe. -/
  | stackOverflow
  /-- The host closed the queue; raised at the delivery step (R198). Safe. -/
  | queueClosed
  /-- DIV with second input 0 (R133, D4). Safe: no quotient is made up. -/
  | divideByZero
  /-- An unassigned mode, an unassigned opcode or an unadmitted pair, raised by the decoder (R79 to R81). Safe. -/
  | illegalInstruction (header : Word)
  deriving DecidableEq, Repr

/-- Run status (R35). -/
inductive Status where
  | running
  | halted
  | fatal (kind : FatalKind)
  deriving DecidableEq, Repr

/-- The whole state: memory with every register in it (R20, R21), the latches (R33), `running` (R33), `status` (R35), the
interrupt queue and its `closed` mark (R34), and the model's own schedule of what arrives in the coming cycles, one entry a
cycle (D28, log 3). -/
structure State where
  mem : Memory
  latches : Latches
  running : Bool
  status : Status
  irq : List Record
  irqClosed : Bool
  inputs : List CycleInput
  deriving DecidableEq, Repr

/-- Why a step stops. -/
inductive Fault where
  /-- A fatal error of R190: the run ends at once (R119). `left` is the whole state it leaves, with the effects before the
  error standing (R121). Raised by the meanings, the decoder and interrupt delivery. Safe: the run stops where the spec
  ends it (log 1). -/
  | fatalError (kind : FatalKind) (left : State)
  /-- The machine has halted or failed and takes no further step (R118, R119). Raised by `step` alone. Safe (log 2). -/
  | notRunning (left : State)
  deriving DecidableEq, Repr

/-- Why an instruction has no meaning. -/
inductive Refusal where
  /-- Raised by an arm of `exec` whose instruction is not modelled yet; no arm does. Safe. -/
  | notModelled (mnemonic : String)
  deriving DecidableEq, Repr

/-- A step's or a meaning's answer. -/
abbrev Out := Host.Outcome State Fault Refusal

/-- The machine right after boot, before an image is copied (R38): memory with nothing listed, an empty and open queue,
zero latches, and nothing scheduled to arrive (log 3). -/
def State.reset : State where
  mem := Memory.atReset
  latches := { nextWord := 0, mode := 0, opcode := 0, arg0 := 0, arg1 := 0 }
  running := true
  status := .running
  irq := []
  irqClosed := false
  inputs := []

end Sys2Proof.Machine
end

