-- ==== Sys2Proof/Machine/Ops.lean ====
section
/-! DEFINITION. The named operations every instruction is written with: word access (20_memory.md R50, R51, R55), the
interrupt queue (R15, R34), the stack unit (40_engine.md R113, R114), a fatal end (R119), and interrupt entry and return
(60_exceptions.md R184, R193). -/

namespace Sys2Proof.Machine

/-- `MemRead(a, 2)` at an address known to be in range (R50). -/
def State.word (s : State) (a : Word) : Word := s.mem.wordAt a.toNat

/-- `MemWrite(a, 2, v)` at an address known to be in range (R51). -/
def State.putWord (s : State) (a v : Word) : State := { s with mem := s.mem.setWord a.toNat v }

/-- The byte `M[a]` (R12). -/
def State.byte (s : State) (a : Nat) : Byte := s.mem.byteAt a

/-- CP, the word at 0x0000 (R22). -/
def State.cp (s : State) : Word := s.word cpCell

/-- `pc <- t` (R13). -/
def State.setCp (s : State) (t : Word) : State := s.putWord cpCell t

/-- SP, the word at 0x0002 (R23). -/
def State.sp (s : State) : Word := s.word spCell

/-- A store to SP (R23). -/
def State.setSp (s : State) (v : Word) : State := s.putWord spCell v

/-- The handler pointer cell a reason names (R34). -/
def Reason.cell : Reason → Word
  | .irState => irStateCell
  | .irKeyboard => irKeyboardCell
  | .irOverflow => irOverflowCell

/-- `raise Interrupt(code, reason)`: a record appended at the tail of the queue; no transfer of control (R15, R183). -/
def State.raise (s : State) (r : Record) : State := { s with irq := s.irq ++ [r] }

/-- The record of a code-pointer overrun (R101, R188). -/
def codeOverrun : Record := { code := Config.irOverflowCode, reason := .irOverflow }

/-- The record of a stack overflow (R113, R189). -/
def stackOverrun : Record := { code := Config.irOverflowStack, reason := .irOverflow }

/-- `running <- false` (R104, R174). -/
def State.stopRunning (s : State) : State := { s with running := false }

/-- The queue without its head (R184). -/
def State.withQueue (s : State) (q : List Record) : State := { s with irq := q }

/-- `status <- Fatal(kind)`, `running <- false` (R15, R119). -/
def State.failed (s : State) (k : FatalKind) : State := { s with running := false, status := .fatal k }

/-- A fatal error: the run ends at once and the effects so far stand (R119, R121). -/
def fatal (k : FatalKind) (s : State) : Out := .fault (.fatalError k (s.failed k))

/-- One sub-operation after another; a stop ends the sequence (R15, R121). -/
def andThen (o : Out) (k : State → Out) : Out :=
  match o with
  | .next s => k s
  | .fault f => .fault f
  | .refused r => .refused r

/-- A word access fits at `a`: its second byte is in range too (R50, R53). -/
def wordFits (a : Word) : Bool := inRange (a.toNat + 1)

/-- `MemRead(a, 2)` (R50): the word goes on to `k`; an access that does not fit is fatal (R55). -/
def withWord (a : Word) (s : State) (k : Word → Out) : Out :=
  if wordFits a then k (s.word a) else fatal (.outOfRange a) s

/-- `MemWrite(a, 2, v)` (R51); an access that does not fit is fatal and writes nothing (R55). -/
def storeWord (a v : Word) (s : State) : Out :=
  if wordFits a then .next (s.putWord a v) else fatal (.outOfRange a) s

/-- `StackPush(v)` (R113): the test on the incremented SP, then SP, then the value at the new top. An overflow enqueues its
record and is fatal with SP unchanged and nothing stored (R189, D9). -/
def stackPush (v : Word) (s : State) : Out :=
  let n := s.sp.toNat + 2
  if n > stackLimit then fatal .stackOverflow (s.raise stackOverrun)
  else .next ((s.setSp (BitVec.ofNat 16 n)).putWord (BitVec.ofNat 16 n) v)

/-- `StackPop()` (R114): the word at SP, that cell cleared, SP lowered by 2 only above STACK_BASE. SP is sampled once
(D32). -/
def stackPop (s : State) (k : Word → State → Out) : Out :=
  let sp := s.sp
  withWord sp s fun v =>
    let cleared := s.putWord sp 0x0000
    k v (if sp > stackBase then cleared.setSp (sp - 2) else cleared)

/-- Interrupt entry (R184): the record leaves the queue, CP is pushed, INTERRUPT takes the code, and CP takes the word of
the handler pointer cell. Nothing else is saved or changed (R192). A failed push is fatal with the record lost (R200). -/
def takeInterrupt (r : Record) (rest : List Record) (s : State) : Out :=
  andThen (stackPush s.cp (s.withQueue rest)) fun pushed =>
    let coded := pushed.putWord interruptCell r.code
    .next (coded.setCp (coded.word r.reason.cell))

/-- Return from a handler or a subroutine (R173, R193): the popped word into CP. -/
def returnToCaller (s : State) : Out := stackPop s fun v popped => .next (popped.setCp v)

/-- `UpdateInterrupts()` (R184): a closed queue is fatal before any dequeue (R198), an empty one changes nothing, and
otherwise exactly the oldest record is delivered (R185). -/
def updateInterrupts (s : State) : Out :=
  if s.irqClosed then fatal .queueClosed s
  else
    match s.irq with
    | [] => .next s
    | r :: rest => takeInterrupt r rest s

/-- One arrival from outside (R181, R198). Enqueueing never blocks, on a closed queue either (log 28). -/
def State.arrive (s : State) : HostEvent → State
  | .enqueue r => s.raise r
  | .close => { s with irqClosed := true }

/-- Arrivals in their order. -/
def State.arriveAll (s : State) (es : List HostEvent) : State := es.foldl State.arrive s

/-- What the schedule brings before step 1 of the coming cycle (D28). -/
def State.earlyEvents (s : State) : List HostEvent :=
  match s.inputs with
  | [] => []
  | c :: _ => c.early

/-- What the schedule brings before step 4 of the coming cycle (D28). -/
def State.lateEvents (s : State) : List HostEvent :=
  match s.inputs with
  | [] => []
  | c :: _ => c.late

/-- The arrivals before step 1. -/
def State.arriveEarly (s : State) : State := s.arriveAll s.earlyEvents

/-- The schedule moves on to the next cycle. -/
def State.advanceInputs (s : State) : State := { s with inputs := s.inputs.tail }

/-- The arrivals before step 4, with the cycle's entry of the schedule used up. -/
def State.arriveLate (s : State) : State := (s.arriveAll s.lateEvents).advanceInputs

/-- `LoadImage(image)` (R211): byte by byte at CODE_BASE; an image that does not fit is refused with the first address
outside the array, and the machine never runs (D34, U21). -/
def State.boot (image : List Byte) : Except Nat State :=
  if codeBase + image.length ≤ memSize then .ok { State.reset with mem := State.reset.mem.setBytes codeBase image }
  else .error memSize

end Sys2Proof.Machine
end

