-- ==== Sys2Proof/Machine/Flags.lean ====
section
/-! DEFINITION. The flag unit (40_engine.md R109 to R111, 43_compare.md R150): what ZERO_FLAG and CARRY_FLAG become, and
the result store that writes them. -/

namespace Sys2Proof.Machine

/-- A flag word: 0x0001 or 0x0000 (R110, R111). -/
def flagWord (b : Bool) : Word := if b then 0x0001 else 0x0000

/-- ZERO_FLAG (R110): whether the 16-bit value stored is zero. -/
def zeroFlag (r : Word) : Word := flagWord (r = 0)

/-- CARRY_FLAG (R111): whether the true integer result differs from its truncation; never for the operations that are not
of carry kind. -/
def carryFlag (t : Int) (carryKind : Bool) : Word := flagWord (carryKind && t ≠ (trunc16 t).toNat)

/-- The three stores of R109 in their order (D17): the result, then ZERO_FLAG, then CARRY_FLAG. -/
def storeResult (a0 r zf cf : Word) (s : State) : Out :=
  andThen (storeWord a0 r s) fun stored => .next ((stored.putWord zfCell zf).putWord cfCell cf)

/-- `WriteResult(a0, t, carry_kind)` (R109). -/
def writeResult (a0 : Word) (t : Int) (carryKind : Bool) (s : State) : Out :=
  storeResult a0 (trunc16 t) (zeroFlag (trunc16 t)) (carryFlag t carryKind) s

/-- The tail of `Compare(rel)` (R150): the truth value as the result and as ZERO_FLAG, CARRY_FLAG cleared (C2, D7). -/
def writeTruth (a0 : Word) (b : Bool) (s : State) : Out := storeResult a0 (flagWord b) (flagWord b) 0x0000 s

end Sys2Proof.Machine
end

