-- ==== Sys2Proof/Syntax.lean ====
section
/-! DEFINITION. The instruction set (30_encoding.md): addressing modes, opcodes, operand kinds, and one constructor of
`Instr` for each of the 145 admitted (opcode, mode) pairs, the rows of opcode_table.json. -/

namespace Sys2Proof

/-- The thirteen addressing modes of R73; `noOperand` is NONE. -/
inductive Mode where
  | noOperand
  | rr
  | ri
  | ra
  | aa
  | ar
  | ia
  | ir
  | i
  | r
  | a
  | ii
  | ai
  deriving DecidableEq, Repr

/-- The 24 opcodes of R72. -/
inductive Opcode where
  | add
  | sub
  | mul
  | div
  | inc
  | dec
  | and
  | or
  | xor
  | not
  | shl
  | shr
  | mov
  | push
  | pop
  | cmp
  | cnt
  | jif
  | jmp
  | call
  | ret
  | hlt
  | lge
  | sme
  deriving DecidableEq, Repr

/-- The kinds an operand read as a source can have (R76): immediate, register, address. -/
inductive OperandKind where
  | i
  | r
  | a
  deriving DecidableEq, Repr

/-- The kinds a target can have (R76): an immediate is no target (R160). -/
inductive TargetKind where
  | r
  | a
  deriving DecidableEq, Repr

/-- The kinds the value rule of R112 reads. -/
inductive ValueKind where
  | i
  | r
  deriving DecidableEq, Repr

/-- An instruction: its row of the opcode table and its operand words, args[0] first (R75, R78). Every operand word is
used whole, so every value of every field is an instruction. -/
inductive Instr where
  | addRR (a b : Word)
  | addRI (a b : Word)
  | addRA (a b : Word)
  | addAA (a b : Word)
  | addAR (a b : Word)
  | addIA (a b : Word)
  | addIR (a b : Word)
  | addII (a b : Word)
  | addAI (a b : Word)
  | subRR (a b : Word)
  | subRI (a b : Word)
  | subRA (a b : Word)
  | subAA (a b : Word)
  | subAR (a b : Word)
  | subIA (a b : Word)
  | subIR (a b : Word)
  | subII (a b : Word)
  | subAI (a b : Word)
  | mulRR (a b : Word)
  | mulRI (a b : Word)
  | mulRA (a b : Word)
  | mulAA (a b : Word)
  | mulAR (a b : Word)
  | mulIA (a b : Word)
  | mulIR (a b : Word)
  | mulII (a b : Word)
  | mulAI (a b : Word)
  | divRR (a b : Word)
  | divRI (a b : Word)
  | divRA (a b : Word)
  | divAA (a b : Word)
  | divAR (a b : Word)
  | divIA (a b : Word)
  | divIR (a b : Word)
  | divII (a b : Word)
  | divAI (a b : Word)
  | incI (a : Word)
  | incR (a : Word)
  | incA (a : Word)
  | decI (a : Word)
  | decR (a : Word)
  | decA (a : Word)
  | andRR (a b : Word)
  | andRI (a b : Word)
  | andRA (a b : Word)
  | andAA (a b : Word)
  | andAR (a b : Word)
  | andIA (a b : Word)
  | andIR (a b : Word)
  | andII (a b : Word)
  | andAI (a b : Word)
  | orRR (a b : Word)
  | orRI (a b : Word)
  | orRA (a b : Word)
  | orAA (a b : Word)
  | orAR (a b : Word)
  | orIA (a b : Word)
  | orIR (a b : Word)
  | orII (a b : Word)
  | orAI (a b : Word)
  | xorRR (a b : Word)
  | xorRI (a b : Word)
  | xorRA (a b : Word)
  | xorAA (a b : Word)
  | xorAR (a b : Word)
  | xorIA (a b : Word)
  | xorIR (a b : Word)
  | xorII (a b : Word)
  | xorAI (a b : Word)
  | notI (a : Word)
  | notR (a : Word)
  | notA (a : Word)
  | shlRR (a b : Word)
  | shlRI (a b : Word)
  | shlRA (a b : Word)
  | shlAA (a b : Word)
  | shlAR (a b : Word)
  | shlIA (a b : Word)
  | shlIR (a b : Word)
  | shlII (a b : Word)
  | shlAI (a b : Word)
  | shrRR (a b : Word)
  | shrRI (a b : Word)
  | shrRA (a b : Word)
  | shrAA (a b : Word)
  | shrAR (a b : Word)
  | shrIA (a b : Word)
  | shrIR (a b : Word)
  | shrII (a b : Word)
  | shrAI (a b : Word)
  | movRR (a b : Word)
  | movRA (a b : Word)
  | movAA (a b : Word)
  | movAR (a b : Word)
  | movIA (a b : Word)
  | movIR (a b : Word)
  | pushI (a : Word)
  | pushR (a : Word)
  | popI (a : Word)
  | popR (a : Word)
  | popA (a : Word)
  | cmpRR (a b : Word)
  | cmpRI (a b : Word)
  | cmpRA (a b : Word)
  | cmpAA (a b : Word)
  | cmpAR (a b : Word)
  | cmpIA (a b : Word)
  | cmpIR (a b : Word)
  | cmpII (a b : Word)
  | cmpAI (a b : Word)
  | cntRR (a b : Word)
  | cntRI (a b : Word)
  | cntRA (a b : Word)
  | cntAA (a b : Word)
  | cntAR (a b : Word)
  | cntIA (a b : Word)
  | cntIR (a b : Word)
  | cntII (a b : Word)
  | cntAI (a b : Word)
  | jifI (a : Word)
  | jifR (a : Word)
  | jmpI (a : Word)
  | jmpR (a : Word)
  | callI (a : Word)
  | callR (a : Word)
  | ret
  | hlt
  | lgeRR (a b : Word)
  | lgeRI (a b : Word)
  | lgeRA (a b : Word)
  | lgeAA (a b : Word)
  | lgeAR (a b : Word)
  | lgeIA (a b : Word)
  | lgeIR (a b : Word)
  | lgeII (a b : Word)
  | lgeAI (a b : Word)
  | smeRR (a b : Word)
  | smeRI (a b : Word)
  | smeRA (a b : Word)
  | smeAA (a b : Word)
  | smeAR (a b : Word)
  | smeIA (a b : Word)
  | smeIR (a b : Word)
  | smeII (a b : Word)
  | smeAI (a b : Word)
  deriving DecidableEq, Repr

end Sys2Proof
end

