-- ==== Sys2Proof/Machine/Operands.lean ====
section
/-! DEFINITION. Every operand contract of the instruction set (30_encoding.md R76; 40_engine.md R107, R108, R112;
44_move_stack.md R160). -/

namespace Sys2Proof.Machine

/-- A source by its operand kind (R76): I is the word itself, R the word at that address, A the word at the address held
there. The inner read comes first (R160). -/
def sourceValue (kind : OperandKind) (w : Word) (s : State) (k : Word → Out) : Out :=
  match kind with
  | .i => k w
  | .r => withWord w s k
  | .a => withWord w s fun p => withWord p s k

/-- A target address by its operand kind (R76): R is the operand word, A the word at that address. -/
def targetAddress (kind : TargetKind) (w : Word) (s : State) (k : Word → Out) : Out :=
  match kind with
  | .r => k w
  | .a => withWord w s k

/-- `BinaryOperands()` (R107): v1 is the word at args[0] in every mode; v2 is the word at args[1] in mode RR and args[1]
itself in every other mode. -/
def binaryOperands (mode : Mode) (a0 a1 : Word) (s : State) (k : Word → Word → Out) : Out :=
  withWord a0 s fun v1 => if mode = .rr then withWord a1 s fun v2 => k v1 v2 else k v1 a1

/-- The unary contract (R108): v1 is the word at args[0] in every admitted mode. -/
def unaryOperand (a0 : Word) (s : State) (k : Word → Out) : Out := withWord a0 s k

/-- `OperandValue()` (R112): the value of PUSH and the target of CALL, JMP and JIF. In mode I the operand word itself, in
mode R the word at that address. -/
def operandValue (kind : ValueKind) (a0 : Word) (s : State) (k : Word → Out) : Out :=
  match kind with
  | .i => k a0
  | .r => withWord a0 s k

end Sys2Proof.Machine
end

