-- ==== Sys2Proof/Machine/Arithmetic.lean ====
section
/-! DEFINITION. The arithmetic instructions ADD SUB MUL DIV INC DEC (41_arithmetic.md): one meaning per row of the table over
one shared operation per mnemonic. -/

namespace Sys2Proof.Machine

/-- ADD (R130): the destination word plus the second input, with both flags. -/
def addWords (mode : Mode) (a0 a1 : Word) (s : State) : Out :=
  binaryOperands mode a0 a1 s fun v1 v2 => writeResult a0 (v1.toNat + v2.toNat : Int) true s

/-- ADD, mode RR (R130). -/
def execAddRR (a b : Word) (s : State) : Out := addWords .rr a b s
/-- ADD, mode RI (R130). -/
def execAddRI (a b : Word) (s : State) : Out := addWords .ri a b s
/-- ADD, mode RA (R130). -/
def execAddRA (a b : Word) (s : State) : Out := addWords .ra a b s
/-- ADD, mode AA (R130). -/
def execAddAA (a b : Word) (s : State) : Out := addWords .aa a b s
/-- ADD, mode AR (R130). -/
def execAddAR (a b : Word) (s : State) : Out := addWords .ar a b s
/-- ADD, mode IA (R130). -/
def execAddIA (a b : Word) (s : State) : Out := addWords .ia a b s
/-- ADD, mode IR (R130). -/
def execAddIR (a b : Word) (s : State) : Out := addWords .ir a b s
/-- ADD, mode II (R130). -/
def execAddII (a b : Word) (s : State) : Out := addWords .ii a b s
/-- ADD, mode AI (R130). -/
def execAddAI (a b : Word) (s : State) : Out := addWords .ai a b s

/-- SUB (R131): the destination word minus the second input, with both flags. -/
def subWords (mode : Mode) (a0 a1 : Word) (s : State) : Out :=
  binaryOperands mode a0 a1 s fun v1 v2 => writeResult a0 (v1.toNat - v2.toNat : Int) true s

/-- SUB, mode RR (R131). -/
def execSubRR (a b : Word) (s : State) : Out := subWords .rr a b s
/-- SUB, mode RI (R131). -/
def execSubRI (a b : Word) (s : State) : Out := subWords .ri a b s
/-- SUB, mode RA (R131). -/
def execSubRA (a b : Word) (s : State) : Out := subWords .ra a b s
/-- SUB, mode AA (R131). -/
def execSubAA (a b : Word) (s : State) : Out := subWords .aa a b s
/-- SUB, mode AR (R131). -/
def execSubAR (a b : Word) (s : State) : Out := subWords .ar a b s
/-- SUB, mode IA (R131). -/
def execSubIA (a b : Word) (s : State) : Out := subWords .ia a b s
/-- SUB, mode IR (R131). -/
def execSubIR (a b : Word) (s : State) : Out := subWords .ir a b s
/-- SUB, mode II (R131). -/
def execSubII (a b : Word) (s : State) : Out := subWords .ii a b s
/-- SUB, mode AI (R131). -/
def execSubAI (a b : Word) (s : State) : Out := subWords .ai a b s

/-- MUL (R132): the low 16 bits of the product, with both flags. -/
def mulWords (mode : Mode) (a0 a1 : Word) (s : State) : Out :=
  binaryOperands mode a0 a1 s fun v1 v2 => writeResult a0 (v1.toNat * v2.toNat : Int) true s

/-- MUL, mode RR (R132). -/
def execMulRR (a b : Word) (s : State) : Out := mulWords .rr a b s
/-- MUL, mode RI (R132). -/
def execMulRI (a b : Word) (s : State) : Out := mulWords .ri a b s
/-- MUL, mode RA (R132). -/
def execMulRA (a b : Word) (s : State) : Out := mulWords .ra a b s
/-- MUL, mode AA (R132). -/
def execMulAA (a b : Word) (s : State) : Out := mulWords .aa a b s
/-- MUL, mode AR (R132). -/
def execMulAR (a b : Word) (s : State) : Out := mulWords .ar a b s
/-- MUL, mode IA (R132). -/
def execMulIA (a b : Word) (s : State) : Out := mulWords .ia a b s
/-- MUL, mode IR (R132). -/
def execMulIR (a b : Word) (s : State) : Out := mulWords .ir a b s
/-- MUL, mode II (R132). -/
def execMulII (a b : Word) (s : State) : Out := mulWords .ii a b s
/-- MUL, mode AI (R132). -/
def execMulAI (a b : Word) (s : State) : Out := mulWords .ai a b s

/-- DIV (R133): the floor of the unsigned quotient (D5). A second input of 0 is fatal before any write (D4). -/
def divWords (mode : Mode) (a0 a1 : Word) (s : State) : Out :=
  binaryOperands mode a0 a1 s fun v1 v2 =>
    if v2 = 0 then fatal .divideByZero s else writeResult a0 (v1.toNat / v2.toNat : Int) true s

/-- DIV, mode RR (R133). -/
def execDivRR (a b : Word) (s : State) : Out := divWords .rr a b s
/-- DIV, mode RI (R133). -/
def execDivRI (a b : Word) (s : State) : Out := divWords .ri a b s
/-- DIV, mode RA (R133). -/
def execDivRA (a b : Word) (s : State) : Out := divWords .ra a b s
/-- DIV, mode AA (R133). -/
def execDivAA (a b : Word) (s : State) : Out := divWords .aa a b s
/-- DIV, mode AR (R133). -/
def execDivAR (a b : Word) (s : State) : Out := divWords .ar a b s
/-- DIV, mode IA (R133). -/
def execDivIA (a b : Word) (s : State) : Out := divWords .ia a b s
/-- DIV, mode IR (R133). -/
def execDivIR (a b : Word) (s : State) : Out := divWords .ir a b s
/-- DIV, mode II (R133). -/
def execDivII (a b : Word) (s : State) : Out := divWords .ii a b s
/-- DIV, mode AI (R133). -/
def execDivAI (a b : Word) (s : State) : Out := divWords .ai a b s

/-- INC (R134): the word plus one, with both flags; the mode does not change the meaning (R108). -/
def incWord (a0 : Word) (s : State) : Out :=
  unaryOperand a0 s fun v1 => writeResult a0 (v1.toNat + 1 : Int) true s

/-- INC, mode I (R134). -/
def execIncI (a : Word) (s : State) : Out := incWord a s
/-- INC, mode R (R134). -/
def execIncR (a : Word) (s : State) : Out := incWord a s
/-- INC, mode A (R134). -/
def execIncA (a : Word) (s : State) : Out := incWord a s

/-- DEC (R135): the word minus one, with both flags; the mode does not change the meaning (R108). -/
def decWord (a0 : Word) (s : State) : Out :=
  unaryOperand a0 s fun v1 => writeResult a0 (v1.toNat - 1 : Int) true s

/-- DEC, mode I (R135). -/
def execDecI (a : Word) (s : State) : Out := decWord a s
/-- DEC, mode R (R135). -/
def execDecR (a : Word) (s : State) : Out := decWord a s
/-- DEC, mode A (R135). -/
def execDecA (a : Word) (s : State) : Out := decWord a s

end Sys2Proof.Machine
end

