-- ==== Sys2Proof/Machine/Compare.lean ====
section
/-! DEFINITION. The comparison instructions CMP CNT LGE SME (43_compare.md): one meaning per row of the table over one shared
operation per mnemonic. -/

namespace Sys2Proof.Machine

/-- `Compare(rel)` (R150): the truth value of the relation over the first operand and into ZERO_FLAG, CARRY_FLAG cleared. -/
def compareWords (rel : Word → Word → Bool) (mode : Mode) (a0 a1 : Word) (s : State) : Out :=
  binaryOperands mode a0 a1 s fun v1 v2 => writeTruth a0 (rel v1 v2) s

/-- CMP (R151): equal. -/
def cmpWords (mode : Mode) (a0 a1 : Word) (s : State) : Out := compareWords (fun v1 v2 => v1 = v2) mode a0 a1 s

/-- CMP, mode RR (R151). -/
def execCmpRR (a b : Word) (s : State) : Out := cmpWords .rr a b s
/-- CMP, mode RI (R151). -/
def execCmpRI (a b : Word) (s : State) : Out := cmpWords .ri a b s
/-- CMP, mode RA (R151). -/
def execCmpRA (a b : Word) (s : State) : Out := cmpWords .ra a b s
/-- CMP, mode AA (R151). -/
def execCmpAA (a b : Word) (s : State) : Out := cmpWords .aa a b s
/-- CMP, mode AR (R151). -/
def execCmpAR (a b : Word) (s : State) : Out := cmpWords .ar a b s
/-- CMP, mode IA (R151). -/
def execCmpIA (a b : Word) (s : State) : Out := cmpWords .ia a b s
/-- CMP, mode IR (R151). -/
def execCmpIR (a b : Word) (s : State) : Out := cmpWords .ir a b s
/-- CMP, mode II (R151). -/
def execCmpII (a b : Word) (s : State) : Out := cmpWords .ii a b s
/-- CMP, mode AI (R151). -/
def execCmpAI (a b : Word) (s : State) : Out := cmpWords .ai a b s

/-- CNT (R152): not equal. -/
def cntWords (mode : Mode) (a0 a1 : Word) (s : State) : Out := compareWords (fun v1 v2 => v1 ≠ v2) mode a0 a1 s

/-- CNT, mode RR (R152). -/
def execCntRR (a b : Word) (s : State) : Out := cntWords .rr a b s
/-- CNT, mode RI (R152). -/
def execCntRI (a b : Word) (s : State) : Out := cntWords .ri a b s
/-- CNT, mode RA (R152). -/
def execCntRA (a b : Word) (s : State) : Out := cntWords .ra a b s
/-- CNT, mode AA (R152). -/
def execCntAA (a b : Word) (s : State) : Out := cntWords .aa a b s
/-- CNT, mode AR (R152). -/
def execCntAR (a b : Word) (s : State) : Out := cntWords .ar a b s
/-- CNT, mode IA (R152). -/
def execCntIA (a b : Word) (s : State) : Out := cntWords .ia a b s
/-- CNT, mode IR (R152). -/
def execCntIR (a b : Word) (s : State) : Out := cntWords .ir a b s
/-- CNT, mode II (R152). -/
def execCntII (a b : Word) (s : State) : Out := cntWords .ii a b s
/-- CNT, mode AI (R152). -/
def execCntAI (a b : Word) (s : State) : Out := cntWords .ai a b s

/-- LGE (R153): larger or equal, unsigned. -/
def lgeWords (mode : Mode) (a0 a1 : Word) (s : State) : Out := compareWords (fun v1 v2 => v2.toNat ≤ v1.toNat) mode a0 a1 s

/-- LGE, mode RR (R153). -/
def execLgeRR (a b : Word) (s : State) : Out := lgeWords .rr a b s
/-- LGE, mode RI (R153). -/
def execLgeRI (a b : Word) (s : State) : Out := lgeWords .ri a b s
/-- LGE, mode RA (R153). -/
def execLgeRA (a b : Word) (s : State) : Out := lgeWords .ra a b s
/-- LGE, mode AA (R153). -/
def execLgeAA (a b : Word) (s : State) : Out := lgeWords .aa a b s
/-- LGE, mode AR (R153). -/
def execLgeAR (a b : Word) (s : State) : Out := lgeWords .ar a b s
/-- LGE, mode IA (R153). -/
def execLgeIA (a b : Word) (s : State) : Out := lgeWords .ia a b s
/-- LGE, mode IR (R153). -/
def execLgeIR (a b : Word) (s : State) : Out := lgeWords .ir a b s
/-- LGE, mode II (R153). -/
def execLgeII (a b : Word) (s : State) : Out := lgeWords .ii a b s
/-- LGE, mode AI (R153). -/
def execLgeAI (a b : Word) (s : State) : Out := lgeWords .ai a b s

/-- SME (R154): smaller or equal, unsigned. -/
def smeWords (mode : Mode) (a0 a1 : Word) (s : State) : Out := compareWords (fun v1 v2 => v1.toNat ≤ v2.toNat) mode a0 a1 s

/-- SME, mode RR (R154). -/
def execSmeRR (a b : Word) (s : State) : Out := smeWords .rr a b s
/-- SME, mode RI (R154). -/
def execSmeRI (a b : Word) (s : State) : Out := smeWords .ri a b s
/-- SME, mode RA (R154). -/
def execSmeRA (a b : Word) (s : State) : Out := smeWords .ra a b s
/-- SME, mode AA (R154). -/
def execSmeAA (a b : Word) (s : State) : Out := smeWords .aa a b s
/-- SME, mode AR (R154). -/
def execSmeAR (a b : Word) (s : State) : Out := smeWords .ar a b s
/-- SME, mode IA (R154). -/
def execSmeIA (a b : Word) (s : State) : Out := smeWords .ia a b s
/-- SME, mode IR (R154). -/
def execSmeIR (a b : Word) (s : State) : Out := smeWords .ir a b s
/-- SME, mode II (R154). -/
def execSmeII (a b : Word) (s : State) : Out := smeWords .ii a b s
/-- SME, mode AI (R154). -/
def execSmeAI (a b : Word) (s : State) : Out := smeWords .ai a b s

end Sys2Proof.Machine
end

