-- ==== Sys2Proof/Machine/Control.lean ====
section
/-! DEFINITION. The control transfer instructions JIF JMP CALL RET HLT (45_control.md): one meaning per row of the table over one
shared operation per mnemonic. -/

namespace Sys2Proof.Machine

/-- JIF (R170): the target is resolved whether or not the jump is taken; the jump is taken when the whole ZF word is
0x0001 (D27). -/
def jumpIfZero (kind : ValueKind) (a0 : Word) (s : State) : Out :=
  operandValue kind a0 s fun t => .next (if s.word zfCell = 0x0001 then s.setCp t else s)

/-- JIF, mode I (R170). -/
def execJifI (a : Word) (s : State) : Out := jumpIfZero .i a s
/-- JIF, mode R (R170). -/
def execJifR (a : Word) (s : State) : Out := jumpIfZero .r a s

/-- JMP (R171): CP takes the target. -/
def jumpTo (kind : ValueKind) (a0 : Word) (s : State) : Out := operandValue kind a0 s fun t => .next (s.setCp t)

/-- JMP, mode I (R171). -/
def execJmpI (a : Word) (s : State) : Out := jumpTo .i a s
/-- JMP, mode R (R171). -/
def execJmpR (a : Word) (s : State) : Out := jumpTo .r a s

/-- CALL (R172): the target first, then CP onto the stack, then CP takes the target. -/
def callTo (kind : ValueKind) (a0 : Word) (s : State) : Out :=
  operandValue kind a0 s fun t => andThen (stackPush s.cp s) fun pushed => .next (pushed.setCp t)

/-- CALL, mode I (R172). -/
def execCallI (a : Word) (s : State) : Out := callTo .i a s
/-- CALL, mode R (R172). -/
def execCallR (a : Word) (s : State) : Out := callTo .r a s


/-- RET, mode NONE (R173). -/
def execRet (s : State) : Out := returnToCaller s


/-- HLT, mode NONE (R174). -/
def execHlt (s : State) : Out := .next s.stopRunning

end Sys2Proof.Machine
end

