-- ==== Sys2Proof/Machine/Logic.lean ====
section
/-! DEFINITION. The logic instructions AND OR XOR NOT SHL SHR (42_logic.md): one meaning per row of the table over one shared
operation per mnemonic. -/

namespace Sys2Proof.Machine

/-- AND (R140): bitwise and; CARRY_FLAG cleared. -/
def andWords (mode : Mode) (a0 a1 : Word) (s : State) : Out :=
  binaryOperands mode a0 a1 s fun v1 v2 => writeResult a0 ((v1 &&& v2).toNat : Int) false s

/-- AND, mode RR (R140). -/
def execAndRR (a b : Word) (s : State) : Out := andWords .rr a b s
/-- AND, mode RI (R140). -/
def execAndRI (a b : Word) (s : State) : Out := andWords .ri a b s
/-- AND, mode RA (R140). -/
def execAndRA (a b : Word) (s : State) : Out := andWords .ra a b s
/-- AND, mode AA (R140). -/
def execAndAA (a b : Word) (s : State) : Out := andWords .aa a b s
/-- AND, mode AR (R140). -/
def execAndAR (a b : Word) (s : State) : Out := andWords .ar a b s
/-- AND, mode IA (R140). -/
def execAndIA (a b : Word) (s : State) : Out := andWords .ia a b s
/-- AND, mode IR (R140). -/
def execAndIR (a b : Word) (s : State) : Out := andWords .ir a b s
/-- AND, mode II (R140). -/
def execAndII (a b : Word) (s : State) : Out := andWords .ii a b s
/-- AND, mode AI (R140). -/
def execAndAI (a b : Word) (s : State) : Out := andWords .ai a b s

/-- OR (R141): bitwise inclusive or; CARRY_FLAG cleared. -/
def orWords (mode : Mode) (a0 a1 : Word) (s : State) : Out :=
  binaryOperands mode a0 a1 s fun v1 v2 => writeResult a0 ((v1 ||| v2).toNat : Int) false s

/-- OR, mode RR (R141). -/
def execOrRR (a b : Word) (s : State) : Out := orWords .rr a b s
/-- OR, mode RI (R141). -/
def execOrRI (a b : Word) (s : State) : Out := orWords .ri a b s
/-- OR, mode RA (R141). -/
def execOrRA (a b : Word) (s : State) : Out := orWords .ra a b s
/-- OR, mode AA (R141). -/
def execOrAA (a b : Word) (s : State) : Out := orWords .aa a b s
/-- OR, mode AR (R141). -/
def execOrAR (a b : Word) (s : State) : Out := orWords .ar a b s
/-- OR, mode IA (R141). -/
def execOrIA (a b : Word) (s : State) : Out := orWords .ia a b s
/-- OR, mode IR (R141). -/
def execOrIR (a b : Word) (s : State) : Out := orWords .ir a b s
/-- OR, mode II (R141). -/
def execOrII (a b : Word) (s : State) : Out := orWords .ii a b s
/-- OR, mode AI (R141). -/
def execOrAI (a b : Word) (s : State) : Out := orWords .ai a b s

/-- XOR (R142): bitwise exclusive or; CARRY_FLAG cleared. -/
def xorWords (mode : Mode) (a0 a1 : Word) (s : State) : Out :=
  binaryOperands mode a0 a1 s fun v1 v2 => writeResult a0 ((v1 ^^^ v2).toNat : Int) false s

/-- XOR, mode RR (R142). -/
def execXorRR (a b : Word) (s : State) : Out := xorWords .rr a b s
/-- XOR, mode RI (R142). -/
def execXorRI (a b : Word) (s : State) : Out := xorWords .ri a b s
/-- XOR, mode RA (R142). -/
def execXorRA (a b : Word) (s : State) : Out := xorWords .ra a b s
/-- XOR, mode AA (R142). -/
def execXorAA (a b : Word) (s : State) : Out := xorWords .aa a b s
/-- XOR, mode AR (R142). -/
def execXorAR (a b : Word) (s : State) : Out := xorWords .ar a b s
/-- XOR, mode IA (R142). -/
def execXorIA (a b : Word) (s : State) : Out := xorWords .ia a b s
/-- XOR, mode IR (R142). -/
def execXorIR (a b : Word) (s : State) : Out := xorWords .ir a b s
/-- XOR, mode II (R142). -/
def execXorII (a b : Word) (s : State) : Out := xorWords .ii a b s
/-- XOR, mode AI (R142). -/
def execXorAI (a b : Word) (s : State) : Out := xorWords .ai a b s

/-- NOT (R143): the word is read and 0 is stored, never a complement (D3); ZERO_FLAG set, CARRY_FLAG cleared. -/
def notWord (a0 : Word) (s : State) : Out := unaryOperand a0 s fun _ => writeResult a0 0 false s

/-- NOT, mode I (R143). -/
def execNotI (a : Word) (s : State) : Out := notWord a s
/-- NOT, mode R (R143). -/
def execNotR (a : Word) (s : State) : Out := notWord a s
/-- NOT, mode A (R143). -/
def execNotA (a : Word) (s : State) : Out := notWord a s

/-- SHL (R144): logical shift left by the whole unsigned count; 0 for a count of 16 or more (D6). -/
def shlWords (mode : Mode) (a0 a1 : Word) (s : State) : Out :=
  binaryOperands mode a0 a1 s fun v1 v2 => writeResult a0 ((v1 <<< v2.toNat).toNat : Int) false s

/-- SHL, mode RR (R144). -/
def execShlRR (a b : Word) (s : State) : Out := shlWords .rr a b s
/-- SHL, mode RI (R144). -/
def execShlRI (a b : Word) (s : State) : Out := shlWords .ri a b s
/-- SHL, mode RA (R144). -/
def execShlRA (a b : Word) (s : State) : Out := shlWords .ra a b s
/-- SHL, mode AA (R144). -/
def execShlAA (a b : Word) (s : State) : Out := shlWords .aa a b s
/-- SHL, mode AR (R144). -/
def execShlAR (a b : Word) (s : State) : Out := shlWords .ar a b s
/-- SHL, mode IA (R144). -/
def execShlIA (a b : Word) (s : State) : Out := shlWords .ia a b s
/-- SHL, mode IR (R144). -/
def execShlIR (a b : Word) (s : State) : Out := shlWords .ir a b s
/-- SHL, mode II (R144). -/
def execShlII (a b : Word) (s : State) : Out := shlWords .ii a b s
/-- SHL, mode AI (R144). -/
def execShlAI (a b : Word) (s : State) : Out := shlWords .ai a b s

/-- SHR (R145): logical shift right by the whole unsigned count; 0 for a count of 16 or more (D6). -/
def shrWords (mode : Mode) (a0 a1 : Word) (s : State) : Out :=
  binaryOperands mode a0 a1 s fun v1 v2 => writeResult a0 ((v1 >>> v2.toNat).toNat : Int) false s

/-- SHR, mode RR (R145). -/
def execShrRR (a b : Word) (s : State) : Out := shrWords .rr a b s
/-- SHR, mode RI (R145). -/
def execShrRI (a b : Word) (s : State) : Out := shrWords .ri a b s
/-- SHR, mode RA (R145). -/
def execShrRA (a b : Word) (s : State) : Out := shrWords .ra a b s
/-- SHR, mode AA (R145). -/
def execShrAA (a b : Word) (s : State) : Out := shrWords .aa a b s
/-- SHR, mode AR (R145). -/
def execShrAR (a b : Word) (s : State) : Out := shrWords .ar a b s
/-- SHR, mode IA (R145). -/
def execShrIA (a b : Word) (s : State) : Out := shrWords .ia a b s
/-- SHR, mode IR (R145). -/
def execShrIR (a b : Word) (s : State) : Out := shrWords .ir a b s
/-- SHR, mode II (R145). -/
def execShrII (a b : Word) (s : State) : Out := shrWords .ii a b s
/-- SHR, mode AI (R145). -/
def execShrAI (a b : Word) (s : State) : Out := shrWords .ai a b s

end Sys2Proof.Machine
end

