-- ==== Sys2Proof/Machine/MoveStack.lean ====
section
/-! DEFINITION. The data movement instructions MOV PUSH POP (44_move_stack.md): one meaning per row of the table over one shared
operation per mnemonic. -/

namespace Sys2Proof.Machine

/-- MOV (R160): the source value, then the target address, then one word store; no flag is written (R115). -/
def moveWord (src : OperandKind) (dst : TargetKind) (a0 a1 : Word) (s : State) : Out :=
  sourceValue src a0 s fun v => targetAddress dst a1 s fun t => storeWord t v s

/-- MOV, mode RR (R160). -/
def execMovRR (a b : Word) (s : State) : Out := moveWord .r .r a b s
/-- MOV, mode RA (R160). -/
def execMovRA (a b : Word) (s : State) : Out := moveWord .r .a a b s
/-- MOV, mode AA (R160). -/
def execMovAA (a b : Word) (s : State) : Out := moveWord .a .a a b s
/-- MOV, mode AR (R160). -/
def execMovAR (a b : Word) (s : State) : Out := moveWord .a .r a b s
/-- MOV, mode IA (R160). -/
def execMovIA (a b : Word) (s : State) : Out := moveWord .i .a a b s
/-- MOV, mode IR (R160). -/
def execMovIR (a b : Word) (s : State) : Out := moveWord .i .r a b s

/-- PUSH (R161): the value, read before SP moves, onto the stack. -/
def pushValue (kind : ValueKind) (a0 : Word) (s : State) : Out := operandValue kind a0 s fun v => stackPush v s

/-- PUSH, mode I (R161). -/
def execPushI (a : Word) (s : State) : Out := pushValue .i a s
/-- PUSH, mode R (R161). -/
def execPushR (a : Word) (s : State) : Out := pushValue .r a s

/-- POP (R162): the popped word to the address args[0], after the pop is complete; the mode does not change the
meaning (D32). -/
def popTo (a0 : Word) (s : State) : Out := stackPop s fun v popped => storeWord a0 v popped

/-- POP, mode I (R162). -/
def execPopI (a : Word) (s : State) : Out := popTo a s
/-- POP, mode R (R162). -/
def execPopR (a : Word) (s : State) : Out := popTo a s
/-- POP, mode A (R162). -/
def execPopA (a : Word) (s : State) : Out := popTo a s

end Sys2Proof.Machine
end

