-- ==== Sys2Proof/Machine/Dispatch.lean ====
section
/-! DEFINITION. `Handle` (40_engine.md R105): one arm per constructor of Instr, each one call of that row's meaning. The
state given holds CP past the instruction (R122). -/

namespace Sys2Proof.Machine

def exec (i : Instr) (s : State) : Host.Outcome State Fault Refusal :=
  match i with
  | .addRR a b => Sys2Proof.Machine.execAddRR a b s
  | .addRI a b => Sys2Proof.Machine.execAddRI a b s
  | .addRA a b => Sys2Proof.Machine.execAddRA a b s
  | .addAA a b => Sys2Proof.Machine.execAddAA a b s
  | .addAR a b => Sys2Proof.Machine.execAddAR a b s
  | .addIA a b => Sys2Proof.Machine.execAddIA a b s
  | .addIR a b => Sys2Proof.Machine.execAddIR a b s
  | .addII a b => Sys2Proof.Machine.execAddII a b s
  | .addAI a b => Sys2Proof.Machine.execAddAI a b s
  | .subRR a b => Sys2Proof.Machine.execSubRR a b s
  | .subRI a b => Sys2Proof.Machine.execSubRI a b s
  | .subRA a b => Sys2Proof.Machine.execSubRA a b s
  | .subAA a b => Sys2Proof.Machine.execSubAA a b s
  | .subAR a b => Sys2Proof.Machine.execSubAR a b s
  | .subIA a b => Sys2Proof.Machine.execSubIA a b s
  | .subIR a b => Sys2Proof.Machine.execSubIR a b s
  | .subII a b => Sys2Proof.Machine.execSubII a b s
  | .subAI a b => Sys2Proof.Machine.execSubAI a b s
  | .mulRR a b => Sys2Proof.Machine.execMulRR a b s
  | .mulRI a b => Sys2Proof.Machine.execMulRI a b s
  | .mulRA a b => Sys2Proof.Machine.execMulRA a b s
  | .mulAA a b => Sys2Proof.Machine.execMulAA a b s
  | .mulAR a b => Sys2Proof.Machine.execMulAR a b s
  | .mulIA a b => Sys2Proof.Machine.execMulIA a b s
  | .mulIR a b => Sys2Proof.Machine.execMulIR a b s
  | .mulII a b => Sys2Proof.Machine.execMulII a b s
  | .mulAI a b => Sys2Proof.Machine.execMulAI a b s
  | .divRR a b => Sys2Proof.Machine.execDivRR a b s
  | .divRI a b => Sys2Proof.Machine.execDivRI a b s
  | .divRA a b => Sys2Proof.Machine.execDivRA a b s
  | .divAA a b => Sys2Proof.Machine.execDivAA a b s
  | .divAR a b => Sys2Proof.Machine.execDivAR a b s
  | .divIA a b => Sys2Proof.Machine.execDivIA a b s
  | .divIR a b => Sys2Proof.Machine.execDivIR a b s
  | .divII a b => Sys2Proof.Machine.execDivII a b s
  | .divAI a b => Sys2Proof.Machine.execDivAI a b s
  | .incI a => Sys2Proof.Machine.execIncI a s
  | .incR a => Sys2Proof.Machine.execIncR a s
  | .incA a => Sys2Proof.Machine.execIncA a s
  | .decI a => Sys2Proof.Machine.execDecI a s
  | .decR a => Sys2Proof.Machine.execDecR a s
  | .decA a => Sys2Proof.Machine.execDecA a s
  | .andRR a b => Sys2Proof.Machine.execAndRR a b s
  | .andRI a b => Sys2Proof.Machine.execAndRI a b s
  | .andRA a b => Sys2Proof.Machine.execAndRA a b s
  | .andAA a b => Sys2Proof.Machine.execAndAA a b s
  | .andAR a b => Sys2Proof.Machine.execAndAR a b s
  | .andIA a b => Sys2Proof.Machine.execAndIA a b s
  | .andIR a b => Sys2Proof.Machine.execAndIR a b s
  | .andII a b => Sys2Proof.Machine.execAndII a b s
  | .andAI a b => Sys2Proof.Machine.execAndAI a b s
  | .orRR a b => Sys2Proof.Machine.execOrRR a b s
  | .orRI a b => Sys2Proof.Machine.execOrRI a b s
  | .orRA a b => Sys2Proof.Machine.execOrRA a b s
  | .orAA a b => Sys2Proof.Machine.execOrAA a b s
  | .orAR a b => Sys2Proof.Machine.execOrAR a b s
  | .orIA a b => Sys2Proof.Machine.execOrIA a b s
  | .orIR a b => Sys2Proof.Machine.execOrIR a b s
  | .orII a b => Sys2Proof.Machine.execOrII a b s
  | .orAI a b => Sys2Proof.Machine.execOrAI a b s
  | .xorRR a b => Sys2Proof.Machine.execXorRR a b s
  | .xorRI a b => Sys2Proof.Machine.execXorRI a b s
  | .xorRA a b => Sys2Proof.Machine.execXorRA a b s
  | .xorAA a b => Sys2Proof.Machine.execXorAA a b s
  | .xorAR a b => Sys2Proof.Machine.execXorAR a b s
  | .xorIA a b => Sys2Proof.Machine.execXorIA a b s
  | .xorIR a b => Sys2Proof.Machine.execXorIR a b s
  | .xorII a b => Sys2Proof.Machine.execXorII a b s
  | .xorAI a b => Sys2Proof.Machine.execXorAI a b s
  | .notI a => Sys2Proof.Machine.execNotI a s
  | .notR a => Sys2Proof.Machine.execNotR a s
  | .notA a => Sys2Proof.Machine.execNotA a s
  | .shlRR a b => Sys2Proof.Machine.execShlRR a b s
  | .shlRI a b => Sys2Proof.Machine.execShlRI a b s
  | .shlRA a b => Sys2Proof.Machine.execShlRA a b s
  | .shlAA a b => Sys2Proof.Machine.execShlAA a b s
  | .shlAR a b => Sys2Proof.Machine.execShlAR a b s
  | .shlIA a b => Sys2Proof.Machine.execShlIA a b s
  | .shlIR a b => Sys2Proof.Machine.execShlIR a b s
  | .shlII a b => Sys2Proof.Machine.execShlII a b s
  | .shlAI a b => Sys2Proof.Machine.execShlAI a b s
  | .shrRR a b => Sys2Proof.Machine.execShrRR a b s
  | .shrRI a b => Sys2Proof.Machine.execShrRI a b s
  | .shrRA a b => Sys2Proof.Machine.execShrRA a b s
  | .shrAA a b => Sys2Proof.Machine.execShrAA a b s
  | .shrAR a b => Sys2Proof.Machine.execShrAR a b s
  | .shrIA a b => Sys2Proof.Machine.execShrIA a b s
  | .shrIR a b => Sys2Proof.Machine.execShrIR a b s
  | .shrII a b => Sys2Proof.Machine.execShrII a b s
  | .shrAI a b => Sys2Proof.Machine.execShrAI a b s
  | .movRR a b => Sys2Proof.Machine.execMovRR a b s
  | .movRA a b => Sys2Proof.Machine.execMovRA a b s
  | .movAA a b => Sys2Proof.Machine.execMovAA a b s
  | .movAR a b => Sys2Proof.Machine.execMovAR a b s
  | .movIA a b => Sys2Proof.Machine.execMovIA a b s
  | .movIR a b => Sys2Proof.Machine.execMovIR a b s
  | .pushI a => Sys2Proof.Machine.execPushI a s
  | .pushR a => Sys2Proof.Machine.execPushR a s
  | .popI a => Sys2Proof.Machine.execPopI a s
  | .popR a => Sys2Proof.Machine.execPopR a s
  | .popA a => Sys2Proof.Machine.execPopA a s
  | .cmpRR a b => Sys2Proof.Machine.execCmpRR a b s
  | .cmpRI a b => Sys2Proof.Machine.execCmpRI a b s
  | .cmpRA a b => Sys2Proof.Machine.execCmpRA a b s
  | .cmpAA a b => Sys2Proof.Machine.execCmpAA a b s
  | .cmpAR a b => Sys2Proof.Machine.execCmpAR a b s
  | .cmpIA a b => Sys2Proof.Machine.execCmpIA a b s
  | .cmpIR a b => Sys2Proof.Machine.execCmpIR a b s
  | .cmpII a b => Sys2Proof.Machine.execCmpII a b s
  | .cmpAI a b => Sys2Proof.Machine.execCmpAI a b s
  | .cntRR a b => Sys2Proof.Machine.execCntRR a b s
  | .cntRI a b => Sys2Proof.Machine.execCntRI a b s
  | .cntRA a b => Sys2Proof.Machine.execCntRA a b s
  | .cntAA a b => Sys2Proof.Machine.execCntAA a b s
  | .cntAR a b => Sys2Proof.Machine.execCntAR a b s
  | .cntIA a b => Sys2Proof.Machine.execCntIA a b s
  | .cntIR a b => Sys2Proof.Machine.execCntIR a b s
  | .cntII a b => Sys2Proof.Machine.execCntII a b s
  | .cntAI a b => Sys2Proof.Machine.execCntAI a b s
  | .jifI a => Sys2Proof.Machine.execJifI a s
  | .jifR a => Sys2Proof.Machine.execJifR a s
  | .jmpI a => Sys2Proof.Machine.execJmpI a s
  | .jmpR a => Sys2Proof.Machine.execJmpR a s
  | .callI a => Sys2Proof.Machine.execCallI a s
  | .callR a => Sys2Proof.Machine.execCallR a s
  | .ret => Sys2Proof.Machine.execRet s
  | .hlt => Sys2Proof.Machine.execHlt s
  | .lgeRR a b => Sys2Proof.Machine.execLgeRR a b s
  | .lgeRI a b => Sys2Proof.Machine.execLgeRI a b s
  | .lgeRA a b => Sys2Proof.Machine.execLgeRA a b s
  | .lgeAA a b => Sys2Proof.Machine.execLgeAA a b s
  | .lgeAR a b => Sys2Proof.Machine.execLgeAR a b s
  | .lgeIA a b => Sys2Proof.Machine.execLgeIA a b s
  | .lgeIR a b => Sys2Proof.Machine.execLgeIR a b s
  | .lgeII a b => Sys2Proof.Machine.execLgeII a b s
  | .lgeAI a b => Sys2Proof.Machine.execLgeAI a b s
  | .smeRR a b => Sys2Proof.Machine.execSmeRR a b s
  | .smeRI a b => Sys2Proof.Machine.execSmeRI a b s
  | .smeRA a b => Sys2Proof.Machine.execSmeRA a b s
  | .smeAA a b => Sys2Proof.Machine.execSmeAA a b s
  | .smeAR a b => Sys2Proof.Machine.execSmeAR a b s
  | .smeIA a b => Sys2Proof.Machine.execSmeIA a b s
  | .smeIR a b => Sys2Proof.Machine.execSmeIR a b s
  | .smeII a b => Sys2Proof.Machine.execSmeII a b s
  | .smeAI a b => Sys2Proof.Machine.execSmeAI a b s

end Sys2Proof.Machine
end

