-- ==== Sys2Proof/Machine/Display.lean ====
section
/-! DEFINITION. The display step (40_engine.md R117, 60_exceptions.md R196): an output to the host, with no effect on the
core. -/

namespace Sys2Proof.Machine

/-- What the renderer is given: the width, the height and the bytes of `[OUT_CHARS, OUT_MODE)` (R117). -/
structure Frame where
  width : Nat
  height : Nat
  bytes : List Byte
  deriving DecidableEq, Repr

/-- `Draw()` (R117): the frame as memory stands, and the state unchanged (D30). -/
def draw (s : State) : Frame × State :=
  ({ width := 80, height := 24, bytes := s.mem.segment outChars outMode }, s)

end Sys2Proof.Machine
end

