-- ==== Sys2Proof/WellFormed.lean ====
section
/-! DEFINITION. Which header fields and operand words form an instruction at all (30_encoding.md R73, R77 to R82): the
checks on an instruction as it is written out, before it is a term of `Instr`. -/

namespace Sys2Proof

/-- An instruction as written in memory: the two header bytes and the operand words that follow (R70). Nothing is
checked yet. -/
structure RawInstr where
  mode : Byte
  opcode : Byte
  operands : List Word
  deriving DecidableEq, Repr

/-- How many operand words each mode code has, the table of R73; `none` for the unassigned codes 0x0D..0xFF (R80). -/
def RawInstr.operandCount (r : RawInstr) : Option Nat :=
  if r.mode = 0x00 then some 0
  else if r.mode ≤ 0x07 then some 2
  else if r.mode ≤ 0x0A then some 1
  else if r.mode ≤ 0x0C then some 2
  else none

/-- The mode is one of the thirteen codes of R73. -/
def RawInstr.modeAssigned (r : RawInstr) : Bool := r.mode ≤ 0x0C

/-- The opcode is one of the 24 values of R72; 0x00 and 0x19..0xFF are unassigned (R79). -/
def RawInstr.opcodeAssigned (r : RawInstr) : Bool := 0x01 ≤ r.opcode && r.opcode ≤ 0x18

/-- The nine two-operand mode codes: RR RI RA AA AR IA IR II AI (R73). -/
def twoOperandModes : List Byte := [0x01, 0x02, 0x03, 0x04, 0x05, 0x06, 0x07, 0x0B, 0x0C]

/-- The mode codes R78 admits for each opcode value; none for an unassigned opcode. -/
def admittedModes (opcode : Byte) : List Byte :=
  if opcode ∈ [0x01, 0x02, 0x03, 0x04, 0x07, 0x08, 0x09, 0x0B, 0x0C, 0x10, 0x11, 0x17, 0x18] then twoOperandModes
  else if opcode ∈ [0x05, 0x06, 0x0A, 0x0F] then [0x08, 0x09, 0x0A]
  else if opcode = 0x0D then [0x01, 0x03, 0x04, 0x05, 0x06, 0x07]
  else if opcode ∈ [0x0E, 0x12, 0x13, 0x14] then [0x08, 0x09]
  else if opcode ∈ [0x15, 0x16] then [0x00]
  else []

/-- The (opcode, mode) pair is one of the 145 of R78. -/
def RawInstr.pairAdmitted (r : RawInstr) : Bool := (admittedModes r.opcode).contains r.mode

/-- As many operand words as the mode calls for (R77). -/
def RawInstr.operandsMatch (r : RawInstr) : Bool := r.operandCount == some r.operands.length

/-- Every check of this file (R82: every header is one of the admitted pairs or fatal). -/
def RawInstr.wellFormed (r : RawInstr) : Bool :=
  r.modeAssigned && r.opcodeAssigned && r.pairAdmitted && r.operandsMatch

end Sys2Proof
end

