-- ==== Sys2Proof/Decode.lean ====
section
/-! DEFINITION. The decoder, total on any bytes, and the encoder (30_encoding.md R70 to R82, 40_engine.md R102, R106). -/

namespace Sys2Proof

open Machine (highByte lowByte joinBytes wordBytes)

/-- The mode a header's high byte names, the table of R73; `none` for 0x0D..0xFF (R80). -/
def Mode.ofByte (b : Byte) : Option Mode :=
  match b.toNat with
  | 0x00 => some .noOperand
  | 0x01 => some .rr
  | 0x02 => some .ri
  | 0x03 => some .ra
  | 0x04 => some .aa
  | 0x05 => some .ar
  | 0x06 => some .ia
  | 0x07 => some .ir
  | 0x08 => some .i
  | 0x09 => some .r
  | 0x0A => some .a
  | 0x0B => some .ii
  | 0x0C => some .ai
  | _ => none

/-- The code of a mode (R73). -/
def Mode.toByte : Mode → Byte
  | .noOperand => 0x00
  | .rr => 0x01
  | .ri => 0x02
  | .ra => 0x03
  | .aa => 0x04
  | .ar => 0x05
  | .ia => 0x06
  | .ir => 0x07
  | .i => 0x08
  | .r => 0x09
  | .a => 0x0A
  | .ii => 0x0B
  | .ai => 0x0C

/-- The operand count of a mode, the table of R73. -/
def Mode.operandCount : Mode → Nat
  | .noOperand => 0
  | .rr => 2
  | .ri => 2
  | .ra => 2
  | .aa => 2
  | .ar => 2
  | .ia => 2
  | .ir => 2
  | .i => 1
  | .r => 1
  | .a => 1
  | .ii => 2
  | .ai => 2

/-- The opcode a header's low byte names, the table of R72; `none` for 0x00 and 0x19..0xFF (R79). -/
def Opcode.ofByte (b : Byte) : Option Opcode :=
  match b.toNat with
  | 0x01 => some .add
  | 0x02 => some .sub
  | 0x03 => some .mul
  | 0x04 => some .div
  | 0x05 => some .inc
  | 0x06 => some .dec
  | 0x07 => some .and
  | 0x08 => some .or
  | 0x09 => some .xor
  | 0x0A => some .not
  | 0x0B => some .shl
  | 0x0C => some .shr
  | 0x0D => some .mov
  | 0x0E => some .push
  | 0x0F => some .pop
  | 0x10 => some .cmp
  | 0x11 => some .cnt
  | 0x12 => some .jif
  | 0x13 => some .jmp
  | 0x14 => some .call
  | 0x15 => some .ret
  | 0x16 => some .hlt
  | 0x17 => some .lge
  | 0x18 => some .sme
  | _ => none

/-- The value of an opcode (R72). -/
def Opcode.toByte : Opcode → Byte
  | .add => 0x01
  | .sub => 0x02
  | .mul => 0x03
  | .div => 0x04
  | .inc => 0x05
  | .dec => 0x06
  | .and => 0x07
  | .or => 0x08
  | .xor => 0x09
  | .not => 0x0A
  | .shl => 0x0B
  | .shr => 0x0C
  | .mov => 0x0D
  | .push => 0x0E
  | .pop => 0x0F
  | .cmp => 0x10
  | .cnt => 0x11
  | .jif => 0x12
  | .jmp => 0x13
  | .call => 0x14
  | .ret => 0x15
  | .hlt => 0x16
  | .lge => 0x17
  | .sme => 0x18

/-- The form of a binary or comparison instruction in a mode: all nine two-operand modes are admitted (R78). -/
def Mode.binaryForm (m : Mode) (rr ri ra aa ar ia ir ii ai : Instr) : Option Instr :=
  match m with
  | .rr => some rr
  | .ri => some ri
  | .ra => some ra
  | .aa => some aa
  | .ar => some ar
  | .ia => some ia
  | .ir => some ir
  | .ii => some ii
  | .ai => some ai
  | .noOperand | .i | .r | .a => none

/-- The form of an instruction admitted in modes I, R and A (R78). -/
def Mode.unaryForm (m : Mode) (i r a : Instr) : Option Instr :=
  match m with
  | .i => some i
  | .r => some r
  | .a => some a
  | .noOperand | .rr | .ri | .ra | .aa | .ar | .ia | .ir | .ii | .ai => none

/-- The form of an instruction admitted in modes I and R (R78). -/
def Mode.valueForm (m : Mode) (i r : Instr) : Option Instr :=
  match m with
  | .i => some i
  | .r => some r
  | .noOperand | .a | .rr | .ri | .ra | .aa | .ar | .ia | .ir | .ii | .ai => none

/-- The form of MOV: six modes are admitted (R78, R160). -/
def Mode.moveForm (m : Mode) (rr ra aa ar ia ir : Instr) : Option Instr :=
  match m with
  | .rr => some rr
  | .ra => some ra
  | .aa => some aa
  | .ar => some ar
  | .ia => some ia
  | .ir => some ir
  | .noOperand | .i | .r | .a | .ri | .ii | .ai => none

/-- The form of an instruction admitted in mode NONE alone (R78). -/
def Mode.bareForm (m : Mode) (bare : Instr) : Option Instr :=
  match m with
  | .noOperand => some bare
  | .i | .r | .a | .rr | .ri | .ra | .aa | .ar | .ia | .ir | .ii | .ai => none

/-- The instruction of an (opcode, mode) pair with its operand words; `none` for a pair outside R78 (R81). -/
def assemble (op : Opcode) (m : Mode) (a b : Word) : Option Instr :=
  match op with
  | .add => m.binaryForm (.addRR a b) (.addRI a b) (.addRA a b) (.addAA a b) (.addAR a b) (.addIA a b) (.addIR a b) (.addII a b) (.addAI a b)
  | .sub => m.binaryForm (.subRR a b) (.subRI a b) (.subRA a b) (.subAA a b) (.subAR a b) (.subIA a b) (.subIR a b) (.subII a b) (.subAI a b)
  | .mul => m.binaryForm (.mulRR a b) (.mulRI a b) (.mulRA a b) (.mulAA a b) (.mulAR a b) (.mulIA a b) (.mulIR a b) (.mulII a b) (.mulAI a b)
  | .div => m.binaryForm (.divRR a b) (.divRI a b) (.divRA a b) (.divAA a b) (.divAR a b) (.divIA a b) (.divIR a b) (.divII a b) (.divAI a b)
  | .inc => m.unaryForm (.incI a) (.incR a) (.incA a)
  | .dec => m.unaryForm (.decI a) (.decR a) (.decA a)
  | .and => m.binaryForm (.andRR a b) (.andRI a b) (.andRA a b) (.andAA a b) (.andAR a b) (.andIA a b) (.andIR a b) (.andII a b) (.andAI a b)
  | .or => m.binaryForm (.orRR a b) (.orRI a b) (.orRA a b) (.orAA a b) (.orAR a b) (.orIA a b) (.orIR a b) (.orII a b) (.orAI a b)
  | .xor => m.binaryForm (.xorRR a b) (.xorRI a b) (.xorRA a b) (.xorAA a b) (.xorAR a b) (.xorIA a b) (.xorIR a b) (.xorII a b) (.xorAI a b)
  | .not => m.unaryForm (.notI a) (.notR a) (.notA a)
  | .shl => m.binaryForm (.shlRR a b) (.shlRI a b) (.shlRA a b) (.shlAA a b) (.shlAR a b) (.shlIA a b) (.shlIR a b) (.shlII a b) (.shlAI a b)
  | .shr => m.binaryForm (.shrRR a b) (.shrRI a b) (.shrRA a b) (.shrAA a b) (.shrAR a b) (.shrIA a b) (.shrIR a b) (.shrII a b) (.shrAI a b)
  | .mov => m.moveForm (.movRR a b) (.movRA a b) (.movAA a b) (.movAR a b) (.movIA a b) (.movIR a b)
  | .push => m.valueForm (.pushI a) (.pushR a)
  | .pop => m.unaryForm (.popI a) (.popR a) (.popA a)
  | .cmp => m.binaryForm (.cmpRR a b) (.cmpRI a b) (.cmpRA a b) (.cmpAA a b) (.cmpAR a b) (.cmpIA a b) (.cmpIR a b) (.cmpII a b) (.cmpAI a b)
  | .cnt => m.binaryForm (.cntRR a b) (.cntRI a b) (.cntRA a b) (.cntAA a b) (.cntAR a b) (.cntIA a b) (.cntIR a b) (.cntII a b) (.cntAI a b)
  | .jif => m.valueForm (.jifI a) (.jifR a)
  | .jmp => m.valueForm (.jmpI a) (.jmpR a)
  | .call => m.valueForm (.callI a) (.callR a)
  | .ret => m.bareForm .ret
  | .hlt => m.bareForm .hlt
  | .lge => m.binaryForm (.lgeRR a b) (.lgeRI a b) (.lgeRA a b) (.lgeAA a b) (.lgeAR a b) (.lgeIA a b) (.lgeIR a b) (.lgeII a b) (.lgeAI a b)
  | .sme => m.binaryForm (.smeRR a b) (.smeRI a b) (.smeRA a b) (.smeAA a b) (.smeAR a b) (.smeIA a b) (.smeIR a b) (.smeII a b) (.smeAI a b)

/-- Why bytes are no instruction. -/
inductive DecodeError where
  /-- The bytes end before the instruction does. -/
  | truncated
  /-- The high byte names no mode (R80). -/
  | unassignedMode (header : Word)
  /-- The low byte names no opcode (R79). -/
  | unassignedOpcode (header : Word)
  /-- An assigned opcode in a mode it does not admit (R81). -/
  | unadmittedPair (header : Word)
  deriving DecidableEq, Repr

/-- The instruction of a header word and its latched operand words: the mode check, the opcode check and the pair check in
that order (R102, R106). -/
def decodeFields (header a b : Word) : Except DecodeError Instr :=
  match Mode.ofByte (highByte header) with
  | none => .error (.unassignedMode header)
  | some m =>
    match Opcode.ofByte (lowByte header) with
    | none => .error (.unassignedOpcode header)
    | some op =>
      match assemble op m a b with
      | none => .error (.unadmittedPair header)
      | some i => .ok i

/-- The next `n` big-endian words of a byte sequence, and the bytes after them. -/
def takeWords : Nat → List Byte → Option (List Word × List Byte)
  | 0, bytes => some ([], bytes)
  | n + 1, hi :: lo :: rest => (takeWords n rest).map fun p => (joinBytes hi lo :: p.1, p.2)
  | _ + 1, _ => none

/-- The decoder: the instruction at the head of a byte sequence and the bytes after it. The mode alone tells how many
operand words follow (R74, R77), so its check comes first and the other two after the operand words (R102, R106). -/
def decode : List Byte → Except DecodeError (Instr × List Byte)
  | hi :: lo :: rest =>
    match Mode.ofByte hi with
    | none => .error (.unassignedMode (joinBytes hi lo))
    | some m =>
      match takeWords m.operandCount rest with
      | none => .error .truncated
      | some (args, after) =>
        (decodeFields (joinBytes hi lo) (args.getD 0 0) (args.getD 1 0)).map fun i => (i, after)
  | _ => .error .truncated

/-- The row of an instruction: its opcode, its mode and its operand words in order (R72, R73, R75). -/
def Instr.fields : Instr → Opcode × Mode × List Word
  | .addRR a b => (.add, .rr, [a, b])
  | .addRI a b => (.add, .ri, [a, b])
  | .addRA a b => (.add, .ra, [a, b])
  | .addAA a b => (.add, .aa, [a, b])
  | .addAR a b => (.add, .ar, [a, b])
  | .addIA a b => (.add, .ia, [a, b])
  | .addIR a b => (.add, .ir, [a, b])
  | .addII a b => (.add, .ii, [a, b])
  | .addAI a b => (.add, .ai, [a, b])
  | .subRR a b => (.sub, .rr, [a, b])
  | .subRI a b => (.sub, .ri, [a, b])
  | .subRA a b => (.sub, .ra, [a, b])
  | .subAA a b => (.sub, .aa, [a, b])
  | .subAR a b => (.sub, .ar, [a, b])
  | .subIA a b => (.sub, .ia, [a, b])
  | .subIR a b => (.sub, .ir, [a, b])
  | .subII a b => (.sub, .ii, [a, b])
  | .subAI a b => (.sub, .ai, [a, b])
  | .mulRR a b => (.mul, .rr, [a, b])
  | .mulRI a b => (.mul, .ri, [a, b])
  | .mulRA a b => (.mul, .ra, [a, b])
  | .mulAA a b => (.mul, .aa, [a, b])
  | .mulAR a b => (.mul, .ar, [a, b])
  | .mulIA a b => (.mul, .ia, [a, b])
  | .mulIR a b => (.mul, .ir, [a, b])
  | .mulII a b => (.mul, .ii, [a, b])
  | .mulAI a b => (.mul, .ai, [a, b])
  | .divRR a b => (.div, .rr, [a, b])
  | .divRI a b => (.div, .ri, [a, b])
  | .divRA a b => (.div, .ra, [a, b])
  | .divAA a b => (.div, .aa, [a, b])
  | .divAR a b => (.div, .ar, [a, b])
  | .divIA a b => (.div, .ia, [a, b])
  | .divIR a b => (.div, .ir, [a, b])
  | .divII a b => (.div, .ii, [a, b])
  | .divAI a b => (.div, .ai, [a, b])
  | .incI a => (.inc, .i, [a])
  | .incR a => (.inc, .r, [a])
  | .incA a => (.inc, .a, [a])
  | .decI a => (.dec, .i, [a])
  | .decR a => (.dec, .r, [a])
  | .decA a => (.dec, .a, [a])
  | .andRR a b => (.and, .rr, [a, b])
  | .andRI a b => (.and, .ri, [a, b])
  | .andRA a b => (.and, .ra, [a, b])
  | .andAA a b => (.and, .aa, [a, b])
  | .andAR a b => (.and, .ar, [a, b])
  | .andIA a b => (.and, .ia, [a, b])
  | .andIR a b => (.and, .ir, [a, b])
  | .andII a b => (.and, .ii, [a, b])
  | .andAI a b => (.and, .ai, [a, b])
  | .orRR a b => (.or, .rr, [a, b])
  | .orRI a b => (.or, .ri, [a, b])
  | .orRA a b => (.or, .ra, [a, b])
  | .orAA a b => (.or, .aa, [a, b])
  | .orAR a b => (.or, .ar, [a, b])
  | .orIA a b => (.or, .ia, [a, b])
  | .orIR a b => (.or, .ir, [a, b])
  | .orII a b => (.or, .ii, [a, b])
  | .orAI a b => (.or, .ai, [a, b])
  | .xorRR a b => (.xor, .rr, [a, b])
  | .xorRI a b => (.xor, .ri, [a, b])
  | .xorRA a b => (.xor, .ra, [a, b])
  | .xorAA a b => (.xor, .aa, [a, b])
  | .xorAR a b => (.xor, .ar, [a, b])
  | .xorIA a b => (.xor, .ia, [a, b])
  | .xorIR a b => (.xor, .ir, [a, b])
  | .xorII a b => (.xor, .ii, [a, b])
  | .xorAI a b => (.xor, .ai, [a, b])
  | .notI a => (.not, .i, [a])
  | .notR a => (.not, .r, [a])
  | .notA a => (.not, .a, [a])
  | .shlRR a b => (.shl, .rr, [a, b])
  | .shlRI a b => (.shl, .ri, [a, b])
  | .shlRA a b => (.shl, .ra, [a, b])
  | .shlAA a b => (.shl, .aa, [a, b])
  | .shlAR a b => (.shl, .ar, [a, b])
  | .shlIA a b => (.shl, .ia, [a, b])
  | .shlIR a b => (.shl, .ir, [a, b])
  | .shlII a b => (.shl, .ii, [a, b])
  | .shlAI a b => (.shl, .ai, [a, b])
  | .shrRR a b => (.shr, .rr, [a, b])
  | .shrRI a b => (.shr, .ri, [a, b])
  | .shrRA a b => (.shr, .ra, [a, b])
  | .shrAA a b => (.shr, .aa, [a, b])
  | .shrAR a b => (.shr, .ar, [a, b])
  | .shrIA a b => (.shr, .ia, [a, b])
  | .shrIR a b => (.shr, .ir, [a, b])
  | .shrII a b => (.shr, .ii, [a, b])
  | .shrAI a b => (.shr, .ai, [a, b])
  | .movRR a b => (.mov, .rr, [a, b])
  | .movRA a b => (.mov, .ra, [a, b])
  | .movAA a b => (.mov, .aa, [a, b])
  | .movAR a b => (.mov, .ar, [a, b])
  | .movIA a b => (.mov, .ia, [a, b])
  | .movIR a b => (.mov, .ir, [a, b])
  | .pushI a => (.push, .i, [a])
  | .pushR a => (.push, .r, [a])
  | .popI a => (.pop, .i, [a])
  | .popR a => (.pop, .r, [a])
  | .popA a => (.pop, .a, [a])
  | .cmpRR a b => (.cmp, .rr, [a, b])
  | .cmpRI a b => (.cmp, .ri, [a, b])
  | .cmpRA a b => (.cmp, .ra, [a, b])
  | .cmpAA a b => (.cmp, .aa, [a, b])
  | .cmpAR a b => (.cmp, .ar, [a, b])
  | .cmpIA a b => (.cmp, .ia, [a, b])
  | .cmpIR a b => (.cmp, .ir, [a, b])
  | .cmpII a b => (.cmp, .ii, [a, b])
  | .cmpAI a b => (.cmp, .ai, [a, b])
  | .cntRR a b => (.cnt, .rr, [a, b])
  | .cntRI a b => (.cnt, .ri, [a, b])
  | .cntRA a b => (.cnt, .ra, [a, b])
  | .cntAA a b => (.cnt, .aa, [a, b])
  | .cntAR a b => (.cnt, .ar, [a, b])
  | .cntIA a b => (.cnt, .ia, [a, b])
  | .cntIR a b => (.cnt, .ir, [a, b])
  | .cntII a b => (.cnt, .ii, [a, b])
  | .cntAI a b => (.cnt, .ai, [a, b])
  | .jifI a => (.jif, .i, [a])
  | .jifR a => (.jif, .r, [a])
  | .jmpI a => (.jmp, .i, [a])
  | .jmpR a => (.jmp, .r, [a])
  | .callI a => (.call, .i, [a])
  | .callR a => (.call, .r, [a])
  | .ret => (.ret, .noOperand, [])
  | .hlt => (.hlt, .noOperand, [])
  | .lgeRR a b => (.lge, .rr, [a, b])
  | .lgeRI a b => (.lge, .ri, [a, b])
  | .lgeRA a b => (.lge, .ra, [a, b])
  | .lgeAA a b => (.lge, .aa, [a, b])
  | .lgeAR a b => (.lge, .ar, [a, b])
  | .lgeIA a b => (.lge, .ia, [a, b])
  | .lgeIR a b => (.lge, .ir, [a, b])
  | .lgeII a b => (.lge, .ii, [a, b])
  | .lgeAI a b => (.lge, .ai, [a, b])
  | .smeRR a b => (.sme, .rr, [a, b])
  | .smeRI a b => (.sme, .ri, [a, b])
  | .smeRA a b => (.sme, .ra, [a, b])
  | .smeAA a b => (.sme, .aa, [a, b])
  | .smeAR a b => (.sme, .ar, [a, b])
  | .smeIA a b => (.sme, .ia, [a, b])
  | .smeIR a b => (.sme, .ir, [a, b])
  | .smeII a b => (.sme, .ii, [a, b])
  | .smeAI a b => (.sme, .ai, [a, b])

/-- The instruction as it is written out, unchecked (R70). -/
def Instr.raw (i : Instr) : RawInstr :=
  { mode := i.fields.2.1.toByte, opcode := i.fields.1.toByte, operands := i.fields.2.2 }

/-- The instruction's written form passes every check of WellFormed.lean. -/
def Instr.wellFormed (i : Instr) : Bool := i.raw.wellFormed

/-- The header word, `(mode << 8) | opcode` (R70). -/
def Instr.header (i : Instr) : Word := joinBytes i.raw.mode i.raw.opcode

/-- The encoder: the header word, then the operand words in order (R70, R75). -/
def encode (i : Instr) : List Word := i.header :: i.raw.operands

/-- The encoding as bytes in memory order, each word big-endian (R54, R70). -/
def encodeBytes (i : Instr) : List Byte := wordBytes (encode i)

/-- The length in bytes, 2 + 2 * operand_count(mode) (R74). -/
def Instr.length (i : Instr) : Nat := 2 + 2 * i.fields.2.1.operandCount

/-- The six bytes of an instruction whose bits are `w`, the first word in bits 15..0, the second in bits 31..16, the third
in bits 47..32, every bit at or above `nbits` zero, each word stored big-endian. -/
def tableBytes (nbits w : Nat) : List Byte :=
  let v := w % 2 ^ nbits
  wordBytes [BitVec.ofNat 16 v, BitVec.ofNat 16 (v / 2 ^ 16), BitVec.ofNat 16 (v / 2 ^ 32)]

/-- The instruction the decoder reads from an instruction whose bits are `w`. -/
def decodeTableWord (nbits w : Nat) : Option Instr :=
  match decode (tableBytes nbits w) with
  | .ok p => some p.1
  | .error _ => none

end Sys2Proof
end

