-- ==== Sys2Proof/Machine/Fetch.lean ====
section
/-! DEFINITION. The fetch unit and the decoder's place in the cycle (40_engine.md R101 to R106). -/

namespace Sys2Proof.Machine

/-- What one `FetchWord` returns (R101). -/
inductive FetchedWord where
  /-- The word, with CP advanced by 2. -/
  | word (w : Word) (s : State)
  /-- The halt sentinel: CP is unchanged and one overrun record is enqueued. -/
  | overrun (sentinel : Word) (s : State)
  deriving DecidableEq, Repr

/-- `FetchWord()` (R101): the overrun test first, then the word, then CP + 2 (D11). -/
def fetchWord (s : State) : FetchedWord :=
  if s.cp.toNat > fetchLimit then .overrun haltWord (s.raise codeOverrun)
  else .word (s.word s.cp) (s.setCp (s.cp + 2))

/-- `next_word <- w` (R100, R33). -/
def State.latchWord (s : State) (w : Word) : State := { s with latches := { s.latches with nextWord := w } }

/-- `mode <- next_word[15:8]`, `opcode <- next_word[7:0]` (R71, R102). -/
def State.latchFields (s : State) (header : Word) : State :=
  { s with latches := { s.latches with mode := highByte header, opcode := lowByte header } }

/-- `args[k] <- w` (R103). -/
def State.latchArg (s : State) (k : Nat) (w : Word) : State :=
  { s with latches := if k = 0 then { s.latches with arg0 := w } else { s.latches with arg1 := w } }

/-- What the operand fetch returns (R103). -/
inductive FetchedArgs where
  | done (s : State)
  | overrun (s : State)
  deriving DecidableEq, Repr

/-- The operand loop of R103: `n` more words, into args[k] and on; an overrun abandons the instruction (R104, D12). -/
def fetchArgs : Nat → Nat → State → FetchedArgs
  | 0, _, s => .done s
  | n + 1, k, s =>
    match fetchWord s with
    | .word w s' => fetchArgs n (k + 1) (s'.latchArg k w)
    | .overrun _ s' => .overrun s'

/-- What steps 1 and 2 of a cycle, with the checks at the start of step 3, come to (R100 to R106). -/
inductive Fetched where
  /-- An instruction, with its words fetched and latched and CP past it (R122). -/
  | decoded (i : Instr) (s : State)
  /-- A code-pointer overrun: no instruction executes (R104). -/
  | overrun (s : State)
  /-- An illegal instruction: the header, and the state at the check that fails (R80, R106). -/
  | illegal (header : Word) (s : State)
  deriving DecidableEq, Repr

/-- The header fetch, the mode check, the operand fetch, and the opcode and pair checks, in that order (R100, R102, R103,
R106, R191). An overrunning header fetch leaves the sentinel in next_word. -/
def fetchInstr (s : State) : Fetched :=
  match fetchWord s with
  | .overrun sentinel s1 => .overrun (s1.latchWord sentinel)
  | .word header s1 =>
    let s2 := (s1.latchWord header).latchFields header
    match Mode.ofByte (highByte header) with
    | none => .illegal header s2
    | some m =>
      match fetchArgs m.operandCount 0 s2 with
      | .overrun s3 => .overrun s3
      | .done s3 =>
        match decodeFields header s3.latches.arg0 s3.latches.arg1 with
        | .ok i => .decoded i s3
        | .error _ => .illegal header s3

end Sys2Proof.Machine
end

