-- ==== Sys2Proof/Machine/Cycle.lean ====
section
/-! DEFINITION. One cycle of the core loop (40_engine.md R100). -/

namespace Sys2Proof.Machine

/-- Step 6 (R100, R118): Halted when `running` is false. -/
def State.settleStatus (s : State) : State := if s.running then s else { s with status := .halted }

/-- Steps 4 to 6 of the cycle: what arrived during it is in the queue, at most one record is delivered, the display is
drawn, and the status settles (R100, R117, R118, R120). -/
def endCycle (s : State) : Out :=
  andThen (updateInterrupts s.arriveLate) fun delivered => .next (draw delivered).2.settleStatus

/-- Steps 1 to 3 and what follows them: the instruction the fetch unit and the decoder read is executed; an overrun runs
none and clears `running` (R104); an illegal instruction is fatal before any effect (R106). -/
def runFetched : Fetched → Out
  | .decoded i s => andThen (exec i s) endCycle
  | .overrun s => endCycle s.stopRunning
  | .illegal header s => fatal (.illegalInstruction header) s

/-- One cycle, with the arrivals of the schedule before its step 1 (R100, D28). -/
def cycle (s : State) : Out := runFetched (fetchInstr s.arriveEarly)

end Sys2Proof.Machine
end

