-- ==== Sys2Proof/Machine/Step.lean ====
section
/-! DEFINITION. The step function: one cycle while the status is Running (40_engine.md R100), no step after (R118, R119). -/

namespace Sys2Proof.Machine

/-- One step of the machine. -/
def step (s : State) : Host.Outcome State Fault Refusal :=
  match s.status with
  | .running => cycle s
  | .halted => .fault (.notRunning s)
  | .fatal _ => .fault (.notRunning s)

/-- The state with an instruction's six bytes stored at the address CP holds, where `step` fetches next; the bits at or
above `nbits` are zero. This stands for the load of an image from outside (R211, log 7). -/
def State.withFetchWord (s : State) (nbits w : Nat) : State :=
  { s with mem := s.mem.setBytes s.cp.toNat (tableBytes nbits w) }

end Sys2Proof.Machine
end

