-- ==== Sys2Proof/Safety.lean ====
section
/-! DEFINITION. What counts as a safe and as a successful run, and the invariants of the machine (10_state.md R35, R37;
40_engine.md R118, R119). -/

namespace Sys2Proof.Machine

/-- Between cycles `running` is true exactly while the status is Running (R35). -/
def State.statusAgrees (s : State) : Prop := s.running = true ↔ s.status = .running

/-- The invariant every step keeps: the memory is in canonical form and the status agrees with `running`. -/
def State.Inv (s : State) : Prop := s.mem.wf ∧ s.statusAgrees

/-- The range the stack unit keeps SP in (R37): from boot, the even values from 0x0100 to 0x01FC. -/
def State.stackInRange (s : State) : Prop := 0x0100 ≤ s.sp.toNat ∧ s.sp.toNat ≤ 0x01FC ∧ s.sp.toNat % 2 = 0

/-- A successful run ends Halted (R119). -/
def State.succeeded (s : State) : Prop := s.status = .halted

/-- No fatal error within `k` steps (R119). -/
def runsWithoutFatal (k : Nat) (s : State) : Prop :=
  ∀ j ≤ k, ∀ kind left, Host.Core.run Sys2Proof.core j s ≠ .fault (.fatalError kind left)

/-- The machine halts within `k` steps, with a final state of which `post` holds (R118). -/
def haltsWithin (k : Nat) (s : State) (post : State → Prop) : Prop :=
  ∃ j ≤ k, ∃ t, Host.Core.run Sys2Proof.core j s = .next t ∧ t.succeeded ∧ post t

end Sys2Proof.Machine
end

