-- ==== Sys2Proof/Certificates/Slice0/Obligations.lean ====
section
/-! DEFINITION. The statements for the provers, from the numbered rules of spec/, and the words they are written with. -/

namespace Sys2Proof.Claims

open Machine

/-- 0x0001 where the condition holds, else 0x0000. -/
def bit (b : Bool) : Word := if b then 1 else 0

/-- The state after the three word stores of R109: the result at `a`, ZERO_FLAG, CARRY_FLAG, in that order (D17). -/
def withResult (s : State) (a result zf cf : Word) : State :=
  ((s.putWord a result).putWord 0x0004 zf).putWord 0x0006 cf

/-- The state after a pop (R114): the cell at SP cleared, then SP lowered by 2 if it is above 0x0100. -/
def afterPop (s : State) : State :=
  if 0x0100 < s.sp then (s.putWord s.sp 0).putWord 0x0002 (s.sp - 2) else s.putWord s.sp 0

/-- The state after a push of `v` (R113): SP + 2 into SP, then `v` at the new top. -/
def afterPush (s : State) (v : Word) : State := (s.putWord 0x0002 (s.sp + 2)).putWord (s.sp + 2) v

/-- A push has room (R113). -/
def pushFits (s : State) : Prop := s.sp.toNat + 2 ≤ 0x01FD

/-- What a stack overflow leaves (R113, R189): the record enqueued, the run ended, nothing else changed. -/
def overflowed (s : State) : Out :=
  .fault (.fatalError .stackOverflow
    { s with irq := s.irq ++ [{ code := Config.irOverflowStack, reason := .irOverflow }]
             running := false, status := .fatal .stackOverflow })

/-- What a word access at 0xFFFF leaves (R55, R119): the run ended, nothing else changed. -/
def outOfRange (s : State) : Out :=
  .fault (.fatalError (.outOfRange 0xFFFF) { s with running := false, status := .fatal (.outOfRange 0xFFFF) })

/-- The addresses of the two bytes of the word at `a`. -/
def bytesOf (a : Word) : List Nat := [a.toNat, a.toNat + 1]

/-- Every byte of memory outside `changed` is as before. -/
def keepsBytesBut (changed : List Nat) (s t : State) : Prop := ∀ x, x ∉ changed → t.byte x = s.byte x

/-- Everything but memory and `running` is as before: the latches, the status, the queue and its mark, the schedule. -/
def keepsOutside (s t : State) : Prop :=
  t.latches = s.latches ∧ t.status = s.status ∧ t.irq = s.irq ∧ t.irqClosed = s.irqClosed ∧ t.inputs = s.inputs

/-- The records among some arrivals, in order. -/
def recordsOf (es : List HostEvent) : List Record :=
  es.filterMap fun e => match e with | .enqueue r => some r | .close => none

/-- The state in which a fetched instruction executes (R102, R103, R122): its words latched and CP past it. -/
def pastInstruction (s : State) (i : Instr) : State :=
  { s with
    mem := s.mem.setWord 0x0000 (s.cp + BitVec.ofNat 16 i.length)
    latches :=
      { nextWord := i.header
        mode := highByte i.header
        opcode := lowByte i.header
        arg0 := i.fields.2.2.getD 0 s.latches.arg0
        arg1 := i.fields.2.2.getD 1 s.latches.arg1 } }

/-- The six bytes at CP, as many as the longest instruction has. -/
def bytesAtCp (s : State) : List Byte := (List.range 6).map fun k => s.byte (s.cp.toNat + k)

/-- The eight forms of ADD whose second operand word is the value itself: every two-operand mode but RR (R78, R107). -/
def addForms : List (Word → Word → Instr) :=
  [.addRI, .addRA, .addAA, .addAR, .addIA, .addIR, .addII, .addAI]

/-- The eight forms of SUB whose second operand word is the value itself: every two-operand mode but RR (R78, R107). -/
def subForms : List (Word → Word → Instr) :=
  [.subRI, .subRA, .subAA, .subAR, .subIA, .subIR, .subII, .subAI]

/-- The eight forms of MUL whose second operand word is the value itself: every two-operand mode but RR (R78, R107). -/
def mulForms : List (Word → Word → Instr) :=
  [.mulRI, .mulRA, .mulAA, .mulAR, .mulIA, .mulIR, .mulII, .mulAI]

/-- The eight forms of DIV whose second operand word is the value itself: every two-operand mode but RR (R78, R107). -/
def divForms : List (Word → Word → Instr) :=
  [.divRI, .divRA, .divAA, .divAR, .divIA, .divIR, .divII, .divAI]

/-- The eight forms of AND whose second operand word is the value itself: every two-operand mode but RR (R78, R107). -/
def andForms : List (Word → Word → Instr) :=
  [.andRI, .andRA, .andAA, .andAR, .andIA, .andIR, .andII, .andAI]

/-- The eight forms of OR whose second operand word is the value itself: every two-operand mode but RR (R78, R107). -/
def orForms : List (Word → Word → Instr) :=
  [.orRI, .orRA, .orAA, .orAR, .orIA, .orIR, .orII, .orAI]

/-- The eight forms of XOR whose second operand word is the value itself: every two-operand mode but RR (R78, R107). -/
def xorForms : List (Word → Word → Instr) :=
  [.xorRI, .xorRA, .xorAA, .xorAR, .xorIA, .xorIR, .xorII, .xorAI]

/-- The eight forms of SHL whose second operand word is the value itself: every two-operand mode but RR (R78, R107). -/
def shlForms : List (Word → Word → Instr) :=
  [.shlRI, .shlRA, .shlAA, .shlAR, .shlIA, .shlIR, .shlII, .shlAI]

/-- The eight forms of SHR whose second operand word is the value itself: every two-operand mode but RR (R78, R107). -/
def shrForms : List (Word → Word → Instr) :=
  [.shrRI, .shrRA, .shrAA, .shrAR, .shrIA, .shrIR, .shrII, .shrAI]

/-- The eight forms of CMP whose second operand word is the value itself: every two-operand mode but RR (R78, R107). -/
def cmpForms : List (Word → Word → Instr) :=
  [.cmpRI, .cmpRA, .cmpAA, .cmpAR, .cmpIA, .cmpIR, .cmpII, .cmpAI]

/-- The eight forms of CNT whose second operand word is the value itself: every two-operand mode but RR (R78, R107). -/
def cntForms : List (Word → Word → Instr) :=
  [.cntRI, .cntRA, .cntAA, .cntAR, .cntIA, .cntIR, .cntII, .cntAI]

/-- The eight forms of LGE whose second operand word is the value itself: every two-operand mode but RR (R78, R107). -/
def lgeForms : List (Word → Word → Instr) :=
  [.lgeRI, .lgeRA, .lgeAA, .lgeAR, .lgeIA, .lgeIR, .lgeII, .lgeAI]

/-- The eight forms of SME whose second operand word is the value itself: every two-operand mode but RR (R78, R107). -/
def smeForms : List (Word → Word → Instr) :=
  [.smeRI, .smeRA, .smeAA, .smeAR, .smeIA, .smeIR, .smeII, .smeAI]

/-- The RR forms of the thirteen binary and comparison instructions (R78). -/
def rrForms : List (Word → Word → Instr) :=
  [.addRR, .subRR, .mulRR, .divRR, .andRR, .orRR, .xorRR, .shlRR, .shrRR, .cmpRR, .cntRR, .lgeRR, .smeRR]

/-- The other 104 forms of the thirteen binary and comparison instructions (R78). -/
def valueForms : List (Word → Word → Instr) :=
  addForms ++ subForms ++ mulForms ++ divForms ++ andForms ++ orForms ++ xorForms ++
    shlForms ++ shrForms ++ cmpForms ++ cntForms ++ lgeForms ++ smeForms

/-- The nine forms of INC, DEC and NOT (R78). -/
def unaryForms : List (Word → Instr) :=
  [.incI, .incR, .incA, .decI, .decR, .decA, .notI, .notR, .notA]

end Sys2Proof.Claims

open Sys2Proof Sys2Proof.Machine Sys2Proof.Claims

/-- For every instruction and any bytes after it, decoding the bytes of its encoding answers exactly that instruction
and leaves exactly the bytes after it. -/
def Obligations.EncodeThenDecodeReturnsInstruction : Prop :=
  ∀ (i : Instr) (rest : List Byte), decode (encodeBytes i ++ rest) = .ok (i, rest)

/-- Whenever the decoder answers an instruction and a rest, the bytes it read are exactly the encoding of that
instruction followed by that rest: no bit of an encoding is ignored. -/
def Obligations.DecodedBytesAreTheEncoding : Prop :=
  ∀ (bytes rest : List Byte) (i : Instr), decode bytes = .ok (i, rest) → bytes = encodeBytes i ++ rest

/-- The words 0201 0008 0001, 090A 0008, 0110 0008 000A, 040D 000C 000A, 0814 2006 and 0015 of the spec's examples
decode to ADD in mode RI, NOT in mode R, CMP in mode RR, MOV in mode AA, CALL in mode I and RET. -/
def Obligations.SpecWordsDecode : Prop :=
  decodeTableWord 48 0x000100080201 = some (.addRI 0x0008 0x0001) ∧
  decodeTableWord 32 0x0008090A = some (.notR 0x0008) ∧
  decodeTableWord 48 0x000A00080110 = some (.cmpRR 0x0008 0x000A) ∧
  decodeTableWord 48 0x000A000C040D = some (.movAA 0x000C 0x000A) ∧
  decodeTableWord 32 0x20060814 = some (.callI 0x2006) ∧
  decodeTableWord 16 0x0015 = some .ret

/-- Every instruction's encoding has 2 + 2 * operand_count(mode) bytes, which is 2, 4 or 6; and whatever the low byte
and the rest are, bytes that decode consume exactly the length that the header's high byte alone gives (R74). A
header whose high byte names no mode has no operand count: that decode refuses it as unassignedMode, whatever
follows, is the spec's own decision D15 (R80, log 19), no part of R74. -/
def Obligations.LengthFollowsFromTheModeByte : Prop :=
  (∀ i : Instr, (encodeBytes i).length = 2 + 2 * i.fields.2.1.operandCount ∧
    ((encodeBytes i).length = 2 ∨ (encodeBytes i).length = 4 ∨ (encodeBytes i).length = 6)) ∧
  (∀ (hi lo : Byte) (rest after : List Byte) (i : Instr) (m : Mode), Mode.ofByte hi = some m →
    decode (hi :: lo :: rest) = .ok (i, after) → rest.length = 2 * m.operandCount + after.length) ∧
  (∀ hi : Byte, Mode.ofByte hi = none → ∀ (lo : Byte) (rest : List Byte),
    decode (hi :: lo :: rest) = .error (.unassignedMode (joinBytes hi lo)))

/-- A header whose high byte is above 0x0C is refused as an unassigned mode; else one whose low byte is 0x00 or above
0x18 as an unassigned opcode; else one whose mode is not admitted for its opcode as an unadmitted pair; and every
admitted header decodes to an instruction with that header. The refusals are the spec's decisions D14 to D16 (log
19). -/
def Obligations.HeadersOutsideTheAdmittedPairsAreRefused : Prop :=
  ∀ header a b : Word,
    (0x0C < highByte header → decodeFields header a b = .error (.unassignedMode header)) ∧
    (highByte header ≤ 0x0C → (lowByte header = 0x00 ∨ 0x18 < lowByte header) →
      decodeFields header a b = .error (.unassignedOpcode header)) ∧
    (highByte header ≤ 0x0C → lowByte header ≠ 0x00 → lowByte header ≤ 0x18 →
      highByte header ∉ admittedModes (lowByte header) →
      decodeFields header a b = .error (.unadmittedPair header)) ∧
    (highByte header ∈ admittedModes (lowByte header) →
      ∃ i, decodeFields header a b = .ok i ∧ i.header = header)

/-- A word read at a goes on with the word whose value is M[a] * 256 + M[a+1] and hands on nothing else; at 0xFFFF it is
the out-of-range error, and memory is unchanged. -/
def Obligations.WordReadIsBigEndian : Prop :=
  ∀ (a : Word) (s : State) (k : Word → Out),
    (a.toNat + 1 > 0xFFFF →
      withWord a s k = .fault (.fatalError (.outOfRange a) { s with running := false, status := .fatal (.outOfRange a) })) ∧
    (a.toNat + 1 ≤ 0xFFFF →
      ∃ w : Word, w.toNat = (s.byte a.toNat).toNat * 256 + (s.byte (a.toNat + 1)).toNat ∧ withWord a s k = k w)

/-- A word write at a below 0xFFFF puts the high byte at a and the low byte at a+1, leaves every other byte and
everything else of the state as it was; at 0xFFFF it is the out-of-range error and nothing is written. -/
def Obligations.WordWriteStoresTwoBytes : Prop :=
  ∀ (a v : Word) (s : State),
    (a.toNat + 1 > 0xFFFF →
      storeWord a v s =
        .fault (.fatalError (.outOfRange a) { s with running := false, status := .fatal (.outOfRange a) })) ∧
    (a.toNat + 1 ≤ 0xFFFF →
      ∃ t, storeWord a v s = .next t ∧ (t.byte a.toNat).toNat = v.toNat / 256 ∧
        (t.byte (a.toNat + 1)).toNat = v.toNat % 256 ∧ keepsBytesBut (bytesOf a) s t ∧ keepsOutside s t ∧
        t.running = s.running)

/-- After a word v is written at a and then a word w at a+1, M[a] is the high byte of v, M[a+1] and M[a+2] are the bytes
of w, the word at a+1 is w, and every other byte is as before. This holds at odd addresses as at even ones: that no
access needs alignment and a word at an odd address is the bytes there and above is the spec's own decision D35 (log
30). -/
def Obligations.OverlappingWordWrites : Prop :=
  ∀ (a v w : Word) (s : State), a.toNat + 2 ≤ 0xFFFF →
    let t := (s.putWord a v).putWord (a + 1) w
    t.byte a.toNat = highByte v ∧ t.byte (a.toNat + 1) = highByte w ∧ t.byte (a.toNat + 2) = lowByte w ∧
      t.word a = joinBytes (highByte v) (highByte w) ∧ t.word (a + 1) = w ∧
      keepsBytesBut [a.toNat, a.toNat + 1, a.toNat + 2] s t

/-- Two memories in canonical form whose bytes agree at every address from 0 to 0xFFFF are equal: the list of cells and
the palette hold nothing but the 65 536 bytes of the spec. The canonical form is the model's choice (log 6). -/
def Obligations.EqualBytesAreEqualMemories : Prop :=
  ∀ m n : Memory, m.wf → n.wf → (∀ a, a < 0x10000 → m.byteAt a = n.byteAt a) → m = n

/-- With a0 not 0xFFFF (and in mode RR the second address not 0xFFFF) ADD answers the state with the sum of the two
inputs modulo 65536 at a0, ZF = 1 exactly when that is 0, and CF = 1 exactly when the true sum is above 0xFFFF; the
second input is the word at args[1] in mode RR and args[1] itself in RI RA AA AR IA IR II AI. The order of the three
stores is the spec's decision D17 (log 20), the destination D8 (log 13). -/
def Obligations.AddStoresSumAndFlags : Prop :=
  ∀ (a b : Word) (s : State), a ≠ 0xFFFF →
    let result := fun v2 : Word =>
      let v1 := s.word a
      Host.Outcome.next (withResult s a (v1 + v2) (bit (v1 + v2 = 0)) (bit (0xFFFF < v1.toNat + v2.toNat)))
    (b ≠ 0xFFFF → exec (.addRR a b) s = result (s.word b)) ∧
    ∀ form ∈ addForms, exec (form a b) s = result b

/-- With its addresses not 0xFFFF SUB answers the state with v1 - v2 modulo 65536 at a0, ZF = 1 exactly when v1 = v2,
and CF = 1 exactly when v1 is below v2. The order of the stores is D17 (log 20), the destination D8 (log 13). -/
def Obligations.SubStoresDifferenceAndFlags : Prop :=
  ∀ (a b : Word) (s : State), a ≠ 0xFFFF →
    let result := fun v2 : Word =>
      let v1 := s.word a
      Host.Outcome.next (withResult s a (v1 - v2) (bit (v1 = v2)) (bit (v1.toNat < v2.toNat)))
    (b ≠ 0xFFFF → exec (.subRR a b) s = result (s.word b)) ∧
    ∀ form ∈ subForms, exec (form a b) s = result b

/-- With its addresses not 0xFFFF MUL answers the state with the product modulo 65536 at a0, ZF = 1 exactly when those
16 bits are 0, and CF = 1 exactly when the true product is above 0xFFFF. The order of the stores is D17 (log 20),
the destination D8 (log 13). -/
def Obligations.MulStoresLowProductAndFlags : Prop :=
  ∀ (a b : Word) (s : State), a ≠ 0xFFFF →
    let result := fun v2 : Word =>
      let v1 := s.word a
      Host.Outcome.next (withResult s a (v1 * v2) (bit (v1 * v2 = 0)) (bit (0xFFFF < v1.toNat * v2.toNat)))
    (b ≠ 0xFFFF → exec (.mulRR a b) s = result (s.word b)) ∧
    ∀ form ∈ mulForms, exec (form a b) s = result b

/-- With its addresses not 0xFFFF and the second input not 0, DIV answers the state with the floor of v1 / v2 at a0, ZF
= 1 exactly when v1 is below v2, and CF = 0. The unsigned floor quotient is the spec's decision D5 (log 39), the
order of the stores D17 (log 20). -/
def Obligations.DivStoresQuotientAndFlags : Prop :=
  ∀ (a b : Word) (s : State), a ≠ 0xFFFF →
    let result := fun v2 : Word =>
      let v1 := s.word a
      Host.Outcome.next (withResult s a (BitVec.ofNat 16 (v1.toNat / v2.toNat)) (bit (v1.toNat < v2.toNat)) 0)
    (b ≠ 0xFFFF → s.word b ≠ 0 → exec (.divRR a b) s = result (s.word b)) ∧
    ∀ form ∈ divForms, b ≠ 0 → exec (form a b) s = result b

/-- With its addresses not 0xFFFF and the second input 0, DIV in every mode ends the run with DivideByZero: no byte of
memory, no flag and no record changes. This is the spec's decision D4 (log 10). -/
def Obligations.DivByZeroIsFatal : Prop :=
  ∀ (a b : Word) (s : State), a ≠ 0xFFFF →
    let stop : Out := .fault (.fatalError .divideByZero { s with running := false, status := .fatal .divideByZero })
    (b ≠ 0xFFFF → s.word b = 0 → exec (.divRR a b) s = stop) ∧
    ∀ form ∈ divForms, b = 0 → exec (form a b) s = stop

/-- With its address not 0xFFFF, INC in each of its three modes stores v + 1 modulo 65536 at args[0] with ZF and CF both
1 exactly when v = 0xFFFF; DEC stores v - 1 modulo 65536 with ZF = 1 exactly when v = 1 and CF = 1 exactly when v =
0. The mode does not change the meaning. The order of the stores is D17 (log 20). -/
def Obligations.IncAndDecStepByOneAndSetFlags : Prop :=
  ∀ (a : Word) (s : State), a ≠ 0xFFFF →
    (∀ form ∈ [Instr.incI, .incR, .incA],
      exec (form a) s = .next (withResult s a (s.word a + 1) (bit (s.word a = 0xFFFF)) (bit (s.word a = 0xFFFF)))) ∧
    (∀ form ∈ [Instr.decI, .decR, .decA],
      exec (form a) s = .next (withResult s a (s.word a - 1) (bit (s.word a = 1)) (bit (s.word a = 0))))

/-- With their addresses not 0xFFFF, AND, OR and XOR store the bitwise and, or and exclusive or of the two inputs at a0,
with ZF = 1 exactly when the result is 0 (for OR: both inputs 0; for XOR: the inputs equal) and CF = 0. The order of
the stores is D17 (log 20). -/
def Obligations.AndOrXorStoreBitsAndClearCarry : Prop :=
  ∀ (a b : Word) (s : State), a ≠ 0xFFFF →
    let v1 := s.word a
    let and := fun v2 : Word => Host.Outcome.next (withResult s a (v1 &&& v2) (bit (v1 &&& v2 = 0)) 0)
    let or := fun v2 : Word => Host.Outcome.next (withResult s a (v1 ||| v2) (bit (v1 = 0 && v2 = 0)) 0)
    let xor := fun v2 : Word => Host.Outcome.next (withResult s a (v1 ^^^ v2) (bit (v1 = v2)) 0)
    (b ≠ 0xFFFF → exec (.andRR a b) s = and (s.word b)) ∧ (∀ form ∈ andForms, exec (form a b) s = and b) ∧
    (b ≠ 0xFFFF → exec (.orRR a b) s = or (s.word b)) ∧ (∀ form ∈ orForms, exec (form a b) s = or b) ∧
    (b ≠ 0xFFFF → exec (.xorRR a b) s = xor (s.word b)) ∧ (∀ form ∈ xorForms, exec (form a b) s = xor b)

/-- With its address not 0xFFFF, NOT in each of its three modes stores 0x0000 at args[0], ZF = 1 and CF = 0: it never
complements. The order of the stores is D17 (log 20). -/
def Obligations.NotStoresZero : Prop :=
  ∀ (a : Word) (s : State), a ≠ 0xFFFF →
    ∀ form ∈ [Instr.notI, .notR, .notA], exec (form a) s = .next (withResult s a 0 1 0)

/-- With their addresses not 0xFFFF, SHL stores v1 * 2^v2 modulo 65536 and SHR the floor of v1 / 2^v2 at a0, which is 0
for every count of 16 or more, with ZF = 1 exactly when the stored word is 0 and CF = 0. Counts of 16 or more are
the spec's decision D6 from general knowledge (log 11); the order of the stores is D17 (log 20). -/
def Obligations.ShiftsUseTheWholeCount : Prop :=
  ∀ (a b : Word) (s : State), a ≠ 0xFFFF →
    let v1 := (s.word a).toNat
    let put := fun r : Word => Host.Outcome.next (withResult s a r (bit (r = 0)) 0)
    let shl := fun v2 : Word => put (if v2.toNat < 16 then BitVec.ofNat 16 (v1 * 2 ^ v2.toNat) else 0)
    let shr := fun v2 : Word => put (if v2.toNat < 16 then BitVec.ofNat 16 (v1 / 2 ^ v2.toNat) else 0)
    (b ≠ 0xFFFF → exec (.shlRR a b) s = shl (s.word b)) ∧ (∀ form ∈ shlForms, exec (form a b) s = shl b) ∧
    (b ≠ 0xFFFF → exec (.shrRR a b) s = shr (s.word b)) ∧ (∀ form ∈ shrForms, exec (form a b) s = shr b)

/-- With their addresses not 0xFFFF, CMP stores 1 at a0 and in ZF exactly when the two inputs are equal, else 0 in both;
CNT the opposite; CF becomes 0. The operands, CF and the stores' order are the spec's decisions D7 and D17 (log 12,
log 20), the polarity of ZF C2 (log 32). -/
def Obligations.CmpAndCntStoreEquality : Prop :=
  ∀ (a b : Word) (s : State), a ≠ 0xFFFF →
    let v1 := s.word a
    let cmp := fun v2 : Word => let b := bit (v1 = v2); Host.Outcome.next (withResult s a b b 0)
    let cnt := fun v2 : Word => let b := bit (v1 ≠ v2); Host.Outcome.next (withResult s a b b 0)
    (b ≠ 0xFFFF → exec (.cmpRR a b) s = cmp (s.word b)) ∧ (∀ form ∈ cmpForms, exec (form a b) s = cmp b) ∧
    (b ≠ 0xFFFF → exec (.cntRR a b) s = cnt (s.word b)) ∧ (∀ form ∈ cntForms, exec (form a b) s = cnt b)

/-- With their addresses not 0xFFFF, LGE stores 1 at a0 and in ZF exactly when v1 >= v2 as unsigned words, SME exactly
when v1 <= v2, else 0 in both; CF becomes 0. The operands, CF and the stores' order are the spec's decisions D7 and
D17 (log 12, log 20), the polarity of ZF C2 (log 32). -/
def Obligations.LgeAndSmeStoreUnsignedOrder : Prop :=
  ∀ (a b : Word) (s : State), a ≠ 0xFFFF →
    let v1 := s.word a
    let lge := fun v2 : Word => let b := bit (v2.toNat ≤ v1.toNat); Host.Outcome.next (withResult s a b b 0)
    let sme := fun v2 : Word => let b := bit (v1.toNat ≤ v2.toNat); Host.Outcome.next (withResult s a b b 0)
    (b ≠ 0xFFFF → exec (.lgeRR a b) s = lge (s.word b)) ∧ (∀ form ∈ lgeForms, exec (form a b) s = lge b) ∧
    (b ≠ 0xFFFF → exec (.smeRR a b) s = sme (s.word b)) ∧ (∀ form ∈ smeForms, exec (form a b) s = sme b)

/-- Where no address read or written is 0xFFFF, MOV stores the source value (args[0] for I, the word at args[0] for R,
the word at the address held there for A) at the target (args[1] for R, the word at args[1] for A), and changes
nothing else. The order of the two reads is D17 (log 20) and does not show here. -/
def Obligations.MovStoresSourceAtTarget : Prop :=
  ∀ (a b : Word) (s : State),
    (b ≠ 0xFFFF → exec (.movIR a b) s = .next (s.putWord b a)) ∧
    (b ≠ 0xFFFF → s.word b ≠ 0xFFFF → exec (.movIA a b) s = .next (s.putWord (s.word b) a)) ∧
    (a ≠ 0xFFFF → b ≠ 0xFFFF → exec (.movRR a b) s = .next (s.putWord b (s.word a))) ∧
    (a ≠ 0xFFFF → b ≠ 0xFFFF → s.word b ≠ 0xFFFF →
      exec (.movRA a b) s = .next (s.putWord (s.word b) (s.word a))) ∧
    (a ≠ 0xFFFF → s.word a ≠ 0xFFFF → b ≠ 0xFFFF →
      exec (.movAR a b) s = .next (s.putWord b (s.word (s.word a)))) ∧
    (a ≠ 0xFFFF → s.word a ≠ 0xFFFF → b ≠ 0xFFFF → s.word b ≠ 0xFFFF →
      exec (.movAA a b) s = .next (s.putWord (s.word b) (s.word (s.word a))))

/-- In each of MOV's six modes, an address of 0xFFFF among args[0] (R and A), the pointer fetched for A, args[1] (A) and
the target ends the run with OutOfRange(0xFFFF), and nothing is written. -/
def Obligations.MovOutOfRangeIsFatal : Prop :=
  ∀ (a b : Word) (s : State),
    (b = 0xFFFF → exec (.movIR a b) s = outOfRange s) ∧
    (b = 0xFFFF ∨ s.word b = 0xFFFF → exec (.movIA a b) s = outOfRange s) ∧
    (a = 0xFFFF ∨ b = 0xFFFF → exec (.movRR a b) s = outOfRange s) ∧
    (a = 0xFFFF ∨ b = 0xFFFF ∨ s.word b = 0xFFFF → exec (.movRA a b) s = outOfRange s) ∧
    (a = 0xFFFF ∨ s.word a = 0xFFFF ∨ b = 0xFFFF → exec (.movAR a b) s = outOfRange s) ∧
    (a = 0xFFFF ∨ s.word a = 0xFFFF ∨ b = 0xFFFF ∨ s.word b = 0xFFFF → exec (.movAA a b) s = outOfRange s)

/-- With room on the stack, PUSH writes SP + 2 into SP and then the value at the new top: args[0] in mode I, the word at
args[0] as it was before SP moved in mode R (args[0] not 0xFFFF). The overflow test is the spec's decision D9 (log
14). -/
def Obligations.PushStoresValueAboveSp : Prop :=
  ∀ (a : Word) (s : State), pushFits s →
    exec (.pushI a) s = .next (afterPush s a) ∧
    (a ≠ 0xFFFF → exec (.pushR a) s = .next (afterPush s (s.word a)))

/-- With SP + 2 above 0x01FD, PUSH and CALL in modes I and R (in mode R with args[0] not 0xFFFF) append the record
(IR_OVERFLOW_STACK, IR_OVERFLOW) to the queue and end the run with StackOverflow; SP, CP and every other byte are
unchanged. The test on the unwrapped SP + 2 is the spec's decision D9 (log 14). -/
def Obligations.PushAndCallOverflowIsFatal : Prop :=
  ∀ (a : Word) (s : State), ¬ pushFits s →
    exec (.pushI a) s = overflowed s ∧ exec (.callI a) s = overflowed s ∧
    (a ≠ 0xFFFF → exec (.pushR a) s = overflowed s ∧ exec (.callR a) s = overflowed s)

/-- With SP and args[0] not 0xFFFF, POP in each of its three modes clears the cell at SP, lowers SP by 2 only if it is
above 0x0100, and then stores the popped word at args[0]. Sampling SP once and the order are the spec's decision D32
(log 27). -/
def Obligations.PopStoresTopAndClearsIt : Prop :=
  ∀ (a : Word) (s : State), s.sp ≠ 0xFFFF → a ≠ 0xFFFF →
    ∀ form ∈ [Instr.popI, .popR, .popA], exec (form a) s = .next ((afterPop s).putWord a (s.word s.sp))

/-- With SP = 0xFFFF, POP and RET end the run with OutOfRange(0xFFFF) and nothing is written; with SP elsewhere and
args[0] = 0xFFFF, POP ends it with the pop already done: the cell cleared and SP lowered. That the earlier effects
stand is the spec's decision D17 (log 20). -/
def Obligations.PopAndRetOutOfRangeIsFatal : Prop :=
  ∀ (a : Word) (s : State),
    (s.sp = 0xFFFF → exec .ret s = outOfRange s ∧ ∀ form ∈ [Instr.popI, .popR, .popA], exec (form a) s = outOfRange s) ∧
    (s.sp ≠ 0xFFFF → ∀ form ∈ [Instr.popI, .popR, .popA], exec (form 0xFFFF) s = outOfRange (afterPop s))

/-- JIF writes its target (args[0] in mode I, the word at args[0] in mode R, args[0] not 0xFFFF) into CP when the word
at 0x0004 is 0x0001 and changes nothing otherwise. The comparison of the whole word is the spec's decision D27 (log
25). -/
def Obligations.JifJumpsOnZeroFlagOne : Prop :=
  ∀ (a : Word) (s : State),
    exec (.jifI a) s = .next (if s.word 0x0004 = 0x0001 then s.putWord 0x0000 a else s) ∧
    (a ≠ 0xFFFF → exec (.jifR a) s = .next (if s.word 0x0004 = 0x0001 then s.putWord 0x0000 (s.word a) else s))

/-- JMP is the header 0x0813 or 0x0913; it writes its target into CP: args[0] in mode I, the word at args[0] in mode R;
no flag and nothing else changes; in mode R with args[0] = 0xFFFF it is the out-of-range error, and no other error
exists. -/
def Obligations.JmpWritesCp : Prop :=
  ∀ (a : Word) (s : State),
    encode (.jmpI a) = [0x0813, a] ∧ encode (.jmpR a) = [0x0913, a] ∧
    (∃ t, exec (.jmpI a) s = .next t ∧ t.cp = a ∧ keepsBytesBut (bytesOf 0x0000) s t ∧ keepsOutside s t ∧
      t.running = s.running) ∧
    (a ≠ 0xFFFF → ∃ t, exec (.jmpR a) s = .next t ∧ t.cp = s.word a ∧ keepsBytesBut (bytesOf 0x0000) s t ∧
      keepsOutside s t ∧ t.running = s.running) ∧
    (a = 0xFFFF → exec (.jmpR a) s = outOfRange s)

/-- With room on the stack, CALL pushes CP (the address after its operand word) and then writes its target into CP:
args[0] in mode I, the word at args[0] as it was before the push in mode R (args[0] not 0xFFFF). The overflow test
is the spec's decision D9 (log 14). -/
def Obligations.CallPushesReturnAddressAndJumps : Prop :=
  ∀ (a : Word) (s : State), pushFits s →
    exec (.callI a) s = .next ((afterPush s s.cp).putWord 0x0000 a) ∧
    (a ≠ 0xFFFF → exec (.callR a) s = .next ((afterPush s s.cp).putWord 0x0000 (s.word a)))

/-- With SP not 0xFFFF, RET does exactly a pop and then writes the popped word into CP; it is the same as POP in mode R
with args[0] = 0x0000. Sampling SP once is the spec's decision D32 (log 27). -/
def Obligations.RetPopsIntoCp : Prop :=
  ∀ s : State,
    (s.sp ≠ 0xFFFF → exec .ret s = .next ((afterPop s).putWord 0x0000 (s.word s.sp))) ∧
    exec .ret s = exec (.popR 0x0000) s

/-- HLT answers the state with running = false and everything else as it was. -/
def Obligations.HltClearsRunning : Prop :=
  ∀ s : State, exec .hlt s = .next { s with running := false }

/-- In all 117 forms of ADD SUB MUL DIV AND OR XOR SHL SHR CMP CNT LGE SME, args[0] = 0xFFFF ends the run with
OutOfRange(0xFFFF) and nothing written; in the thirteen RR forms args[1] = 0xFFFF does too, in the others args[1] is
no address. The nine forms of INC, DEC and NOT, and PUSH, JIF and CALL in mode R, do so for args[0] = 0xFFFF: JIF
whether or not the jump would be taken, PUSH and CALL before any overflow test. Resolving the target first is the
spec's decision D17 (log 20). -/
def Obligations.OperandAddressOutOfRangeIsFatal : Prop :=
  ∀ (a b : Word) (s : State),
    (∀ form ∈ rrForms, a = 0xFFFF ∨ b = 0xFFFF → exec (form a b) s = outOfRange s) ∧
    (∀ form ∈ valueForms, exec (form 0xFFFF b) s = outOfRange s) ∧
    (∀ form ∈ unaryForms ++ [Instr.pushR, .jifR, .callR], exec (form 0xFFFF) s = outOfRange s)

/-- When a form of ADD SUB MUL DIV AND OR XOR SHL SHR CMP CNT LGE SME INC DEC or NOT answers a next state, every byte of
memory outside the destination word at args[0] and the flag words 0x0004 to 0x0007 is unchanged, so every register,
the stack, the handler pointers and INTERRUPT too unless the destination covers them; running, the latches, the
status, the queue and the schedule are unchanged. The stores of arithmetic, logic and NOT are R109, those of CMP,
CNT, LGE and SME R150; the schedule is the model's own field (log 3). That the destination is args[0] in every
binary form is the contract the spec decides on in D8 (R107, log 13), that a comparison stores to CARRY_FLAG at all
its decision D7 (log 12). -/
def Obligations.AluFormsFrame : Prop :=
  ∀ (a b : Word) (s t : State),
    (∀ form ∈ rrForms ++ valueForms, exec (form a b) s = .next t →
      keepsBytesBut (bytesOf a ++ [4, 5, 6, 7]) s t ∧ keepsOutside s t ∧ t.running = s.running) ∧
    (∀ form ∈ unaryForms, exec (form a) s = .next t →
      keepsBytesBut (bytesOf a ++ [4, 5, 6, 7]) s t ∧ keepsOutside s t ∧ t.running = s.running)

/-- When a form of MOV answers a next state, every byte outside the target word is unchanged (the target is args[1] in
RR, AR and IR, and the word at args[1] in RA, AA and IA), and so is everything outside memory. ZF and CF keep their
values unless the target covers them: the source says so of ZF alone, and that MOV never calls the flag unit, so
that CF is kept too, is the spec's own decision D24 (R115, log 23). -/
def Obligations.MovFrame : Prop :=
  ∀ (a b : Word) (s t : State),
    (∀ form ∈ [Instr.movRR, .movAR, .movIR], exec (form a b) s = .next t →
      keepsBytesBut (bytesOf b) s t ∧ keepsOutside s t ∧ t.running = s.running) ∧
    (∀ form ∈ [Instr.movRA, .movAA, .movIA], exec (form a b) s = .next t →
      keepsBytesBut (bytesOf (s.word b)) s t ∧ keepsOutside s t ∧ t.running = s.running)

/-- When PUSH answers a next state only SP and the word at SP + 2 change; POP only SP, the word at SP and the word at
args[0]; CALL only SP, the word at SP + 2 and CP; RET only SP, the word at SP and CP; every other byte, the flags
among them, and everything outside memory are unchanged. That none of the four writes a flag, but through a store
that covers it, is the spec's own decision D24 (R115, log 23); that a pop samples SP once and POP stores to args[0]
after it its decision D32 (log 27). -/
def Obligations.StackFormsFrame : Prop :=
  ∀ (a : Word) (s t : State),
    (∀ i ∈ [Instr.pushI a, .pushR a], exec i s = .next t →
      keepsBytesBut (bytesOf 0x0002 ++ bytesOf (s.sp + 2)) s t ∧ keepsOutside s t ∧ t.running = s.running) ∧
    (∀ i ∈ [Instr.popI a, .popR a, .popA a], exec i s = .next t →
      keepsBytesBut (bytesOf 0x0002 ++ bytesOf s.sp ++ bytesOf a) s t ∧ keepsOutside s t ∧ t.running = s.running) ∧
    (∀ i ∈ [Instr.callI a, .callR a], exec i s = .next t →
      keepsBytesBut (bytesOf 0x0000 ++ bytesOf 0x0002 ++ bytesOf (s.sp + 2)) s t ∧ keepsOutside s t ∧
        t.running = s.running) ∧
    (exec .ret s = .next t →
      keepsBytesBut (bytesOf 0x0000 ++ bytesOf 0x0002 ++ bytesOf s.sp) s t ∧ keepsOutside s t ∧
        t.running = s.running)

/-- When JIF or JMP answers a next state every byte outside CP and everything outside memory are unchanged; HLT leaves
the whole memory and everything but running unchanged. That none of them writes a flag, but through a jump's store
to CP, is the spec's own decision D24 (R115, log 23). -/
def Obligations.JumpAndHaltFrame : Prop :=
  ∀ (a : Word) (s t : State),
    (∀ i ∈ [Instr.jifI a, .jifR a, .jmpI a, .jmpR a], exec i s = .next t →
      keepsBytesBut (bytesOf 0x0000) s t ∧ keepsOutside s t ∧ t.running = s.running) ∧
    (exec .hlt s = .next t → t.mem = s.mem ∧ keepsOutside s t ∧ t.running = false)

/-- For every instruction and every state, if exec answers a next state then the latches, the status, the interrupt
queue, its closed mark and the schedule are as before, and running is as before unless the instruction is HLT, after
which it is false. It speaks of completed instructions only: a PUSH or CALL that overflows appends a record (R189)
and ends in a fatal error. The schedule is the model's own field (R181, D28, log 3). -/
def Obligations.CompletedInstructionKeepsQueueAndLatches : Prop :=
  ∀ (i : Instr) (s t : State), exec i s = .next t →
    keepsOutside s t ∧ t.running = (if i = .hlt then false else s.running)

/-- For every instruction and state, a fault of exec is a fatal error whose state has status Fatal of that kind and
running false; its kind is OutOfRange with address 0xFFFF, or StackOverflow of a PUSH or CALL, or DivideByZero of a
DIV. That a fatal error is a fault carrying the state it leaves is the model's choice (log 1); that DIV by 0 is one
is the spec's own decision D4 (log 10). -/
def Obligations.InstructionFaultsAreTheSpecsKinds : Prop :=
  ∀ (i : Instr) (s : State) (f : Fault), exec i s = .fault f →
    ∃ kind left, f = .fatalError kind left ∧ left.status = .fatal kind ∧ left.running = false ∧
      (kind = .outOfRange 0xFFFF ∨ kind = .stackOverflow ∧ i.fields.1 ∈ [Opcode.push, .call] ∨
        kind = .divideByZero ∧ i.fields.1 = .div)

/-- exec of any instruction at any state, and step at any state, answers a next state or a fault, never a refusal. -/
def Obligations.NothingIsRefused : Prop :=
  (∀ (i : Instr) (s : State) (r : Refusal), exec i s ≠ .refused r) ∧ ∀ (s : State) (r : Refusal), step s ≠ .refused r

/-- When a binary, comparison or unary form answers a next state, the words ZF and CF are each 0x0000 or 0x0001,
whatever the destination overlaps; after AND OR XOR SHL SHR, after DIV, after the comparisons and after NOT the word
CF is 0x0000. That the flag stores come last is the spec's decision D17 (log 20), CF after a comparison D7 (log 12). -/
def Obligations.FlagsReadBackAsZeroOrOne : Prop :=
  ∀ (a b : Word) (s t : State),
    (∀ form ∈ rrForms ++ valueForms, exec (form a b) s = .next t →
      (t.word 0x0004 = 0 ∨ t.word 0x0004 = 1) ∧ (t.word 0x0006 = 0 ∨ t.word 0x0006 = 1) ∧
      ((form a b).fields.1 ∉ [Opcode.add, .sub, .mul] → t.word 0x0006 = 0)) ∧
    (∀ form ∈ unaryForms, exec (form a) s = .next t →
      (t.word 0x0004 = 0 ∨ t.word 0x0004 = 1) ∧ (t.word 0x0006 = 0 ∨ t.word 0x0006 = 1) ∧
      ((form a).fields.1 = Opcode.not → t.word 0x0006 = 0))

/-- When CMP, CNT, LGE or SME in mode RR has answered a next state, JIF in mode I then jumps to its target exactly when
the inputs of the comparison were equal, not equal, larger or equal, smaller or equal, and otherwise changes
nothing. The polarity of ZF is the spec's resolution C2 (log 32). -/
def Obligations.JifAfterComparisonFollowsTheRelation : Prop :=
  ∀ (a b target : Word) (s t : State),
    let follows := fun (holds : Bool) => exec (.jifI target) t = .next (if holds then t.putWord 0x0000 target else t)
    (exec (.cmpRR a b) s = .next t → follows (s.word a = s.word b)) ∧
    (exec (.cntRR a b) s = .next t → follows (s.word a ≠ s.word b)) ∧
    (exec (.lgeRR a b) s = .next t → follows ((s.word b).toNat ≤ (s.word a).toNat)) ∧
    (exec (.smeRR a b) s = .next t → follows ((s.word a).toNat ≤ (s.word b).toNat))

/-- With SP at or above 0x0100, after PUSH in mode I of v has answered a next state, POP in mode R to b (not 0xFFFF)
answers the state in which SP and every byte but the popped cell are as before the push, that cell is 0, and v
stands at b. -/
def Obligations.PushThenPopReturnsValue : Prop :=
  ∀ (v b : Word) (s t : State), 0x0100 ≤ s.sp.toNat → exec (.pushI v) s = .next t → b ≠ 0xFFFF →
    ∃ u, exec (.popR b) t = .next (u.putWord b v) ∧ u.sp = s.sp ∧ u.word (s.sp + 2) = 0 ∧
      keepsBytesBut (bytesOf (s.sp + 2)) s u

/-- From a state whose SP is an even value from 0x0100 to 0x01FC (the range reachable from boot), if PUSH, CALL, RET or
the delivery of a record answers a next state, then SP is again such a value there. -/
def Obligations.StackStaysInRange : Prop :=
  ∀ (a : Word) (r : Record) (rest : List Record) (s t : State), s.stackInRange →
    (∀ i ∈ [Instr.pushI a, .pushR a, .callI a, .callR a, .ret], exec i s = .next t → t.stackInRange) ∧
    (takeInterrupt r rest s = .next t → t.stackInRange)

/-- With SP at or above 0x0100, after CALL in mode I has answered a next state with its target in CP, RET answers a
state whose CP and SP are those of before the CALL and whose memory differs only in the cleared stack cell. -/
def Obligations.CallThenRetResumes : Prop :=
  ∀ (a : Word) (s t : State), 0x0100 ≤ s.sp.toNat → exec (.callI a) s = .next t →
    t.cp = a ∧ ∃ u, exec .ret t = .next u ∧ u.cp = s.cp ∧ u.sp = s.sp ∧ u.word (s.sp + 2) = 0 ∧
      keepsBytesBut (bytesOf (s.sp + 2)) s u

/-- In a running state whose memory is in canonical form, where the bytes at CP decode to i and CP plus i's length is at
most 0xFFFF, step is: the arrivals scheduled before step 1, i's words latched and CP moved past i, exec of i there,
and then steps 4 to 6 of the cycle. The schedule is the model's field (log 3). -/
def Obligations.StepRunsTheDecodedInstruction : Prop :=
  ∀ (s : State) (i : Instr) (rest : List Byte), s.status = .running → s.mem.wf →
    s.cp.toNat + i.length ≤ 0xFFFF → decode (bytesAtCp s) = .ok (i, rest) →
    step s = andThen (exec i (pastInstruction s.arriveEarly i)) endCycle

/-- In a running state with CP = 0xFFFE or 0xFFFF, SP between 0x0100 and 0x01FB, an open empty queue and nothing
scheduled to arrive, step answers a Halted state: the old CP pushed, INTERRUPT = IR_OVERFLOW_CODE, CP = the
IR_OVERFLOW handler pointer, the queue empty, next_word the halt sentinel, every other byte as before. The test, the
sentinel and the unmoved CP are the spec's own decision D11 (log 16), the queue path its D10 (log 15), and that the
halting cycle still delivers its D13 (log 18). A queue with records, arrivals and an SP below 0x0100 are not in this
statement. -/
def Obligations.HeaderOverrunHaltsThroughTheQueue : Prop :=
  ∀ s : State, s.status = .running → 0xFFFD < s.cp.toNat → 0x0100 ≤ s.sp.toNat → s.sp.toNat ≤ 0x01FB →
    s.irq = [] → s.irqClosed = false → s.inputs = [] →
    ∃ t, step s = .next t ∧ t.status = .halted ∧ t.running = false ∧ t.irq = [] ∧ t.sp = s.sp + 2 ∧
      t.word (s.sp + 2) = s.cp ∧ t.word 0x0010 = Config.irOverflowCode ∧ t.cp = s.word 0x0016 ∧
      t.latches = { s.latches with nextWord := 0x0016 } ∧
      keepsBytesBut (bytesOf 0x0000 ++ bytesOf 0x0002 ++ bytesOf 0x0010 ++ bytesOf (s.sp + 2)) s t

/-- In a running state where the header at CP can be fetched, its mode is assigned and calls for n operands, and CP + 2n
is above 0xFFFD, step is steps 4 to 6 of the cycle from a state in which one overrun record was enqueued behind the
queue, running is false, CP is the first address above 0xFFFD that the fetches reached, and every byte from 0x0002
on is as before. Abandoning is the spec's decision D12 (log 17), the test D11 (log 16). -/
def Obligations.OperandOverrunAbandonsTheInstruction : Prop :=
  ∀ (s : State) (m : Mode), s.status = .running → s.cp.toNat ≤ 0xFFFD →
    Mode.ofByte (s.byte s.cp.toNat) = some m → 0xFFFD < s.cp.toNat + 2 * m.operandCount →
    ∃ u : State, step s = endCycle u ∧ u.running = false ∧ u.status = .running ∧
      u.cp.toNat = 0xFFFE + s.cp.toNat % 2 ∧
      u.irq = s.arriveEarly.irq ++ [{ code := Config.irOverflowCode, reason := .irOverflow }] ∧
      u.irqClosed = s.arriveEarly.irqClosed ∧ u.inputs = s.inputs ∧ keepsBytesBut (bytesOf 0x0000) s u

/-- In a running state whose header at CP can be fetched: if its high byte is above 0x0C, step is the fatal error
IllegalInstruction of that header with CP advanced by 2 only; if its mode is assigned and calls for n operands, all
of which can be fetched, and the pair is not admitted (an unassigned opcode among them), it is the same error with
CP advanced by 2 + 2n. Every other byte is as before, and the queue holds nothing but what had arrived. These are
the spec's decisions D14 to D16 (log 19). -/
def Obligations.IllegalHeaderIsFatal : Prop :=
  ∀ s : State, s.status = .running → s.cp.toNat ≤ 0xFFFD →
    let stopsAt := fun newCp : Word =>
      ∃ left, step s = .fault (.fatalError (.illegalInstruction (s.word s.cp)) left) ∧
        left.status = .fatal (.illegalInstruction (s.word s.cp)) ∧ left.cp = newCp ∧
        left.irq = s.arriveEarly.irq ∧ keepsBytesBut (bytesOf 0x0000) s left
    (0x0C < s.byte s.cp.toNat → stopsAt (s.cp + 2)) ∧
    (∀ m : Mode, Mode.ofByte (s.byte s.cp.toNat) = some m → s.cp.toNat + 2 * m.operandCount ≤ 0xFFFD →
      s.byte s.cp.toNat ∉ admittedModes (s.byte (s.cp.toNat + 1)) →
      stopsAt (s.cp + BitVec.ofNat 16 (2 + 2 * m.operandCount)))

/-- At a state whose status is not Running, step answers the fault notRunning with the state unchanged. That the model
answers a fault there is its own choice (log 2). -/
def Obligations.StoppedMachineTakesNoStep : Prop :=
  ∀ s : State, s.status ≠ .running → step s = .fault (.notRunning s)

/-- For a running state with running true, if step answers a next state then that state is Halted exactly when the
cycle's fetch read HLT or overran; otherwise it is Running. -/
def Obligations.MachineHaltsExactlyByHltOrOverrun : Prop :=
  ∀ s t : State, s.running = true → step s = .next t →
    (t.status = .halted ↔ (∃ u, fetchInstr s.arriveEarly = .decoded .hlt u) ∨ ∃ u, fetchInstr s.arriveEarly = .overrun u) ∧
    (t.status = .halted ∨ t.status = .running)

/-- With an open queue whose head is r, SP at or above 0x0100 and room for a push, the delivery step answers a state in
which SP is SP + 2, the word at the new top is the old CP, INTERRUPT is r's code, CP is the word of the handler cell
r's reason names (0x0012, 0x0014, 0x0016), the queue is the rest, and every other byte, the flags and AX to DX among
them, and everything else are as before. -/
def Obligations.DeliveryPushesCpAndJumpsThroughTheCell : Prop :=
  ∀ (r : Record) (rest : List Record) (s : State), s.irqClosed = false → s.irq = r :: rest → 0x0100 ≤ s.sp.toNat →
    pushFits s →
    ∃ t, updateInterrupts s = .next t ∧ t.sp = s.sp + 2 ∧ t.word (s.sp + 2) = s.cp ∧ t.word 0x0010 = r.code ∧
      t.cp = s.word (match r.reason with | .irState => 0x0012 | .irKeyboard => 0x0014 | .irOverflow => 0x0016) ∧
      t.irq = rest ∧ t.irqClosed = false ∧ t.latches = s.latches ∧ t.status = s.status ∧ t.running = s.running ∧
      t.inputs = s.inputs ∧
      keepsBytesBut (bytesOf 0x0000 ++ bytesOf 0x0002 ++ bytesOf 0x0010 ++ bytesOf (s.sp + 2)) s t

/-- With the queue closed, the delivery step is the fatal error QueueClosed with everything else unchanged, whatever is
queued. With it open and empty, the state is unchanged. With it open, a head r, and SP + 2 above 0x01FD, it is the
fatal error StackOverflow: r is gone, the overflow record stands at the tail, and memory is unchanged. These are the
spec's decisions D33 and D37 (log 28, log 31). -/
def Obligations.DeliveryWithoutRoomOrQueue : Prop :=
  ∀ s : State,
    (s.irqClosed = true →
      updateInterrupts s =
        .fault (.fatalError .queueClosed { s with running := false, status := .fatal .queueClosed })) ∧
    (s.irqClosed = false → s.irq = [] → updateInterrupts s = .next s) ∧
    (∀ r rest, s.irqClosed = false → s.irq = r :: rest → ¬ pushFits s →
      updateInterrupts s = overflowed { s with irq := rest })

/-- With SP at or above 0x0100, after the delivery of a record has answered a next state, RET answers a state whose CP
and SP are the interrupted ones and whose memory differs only in INTERRUPT, which keeps the code, and the cleared
stack cell. -/
def Obligations.RetFromHandlerResumes : Prop :=
  ∀ (r : Record) (rest : List Record) (s t : State), 0x0100 ≤ s.sp.toNat → takeInterrupt r rest s = .next t →
    ∃ u, exec .ret t = .next u ∧ u.cp = s.cp ∧ u.sp = s.sp ∧ u.word 0x0010 = r.code ∧ u.word (s.sp + 2) = 0 ∧
      keepsBytesBut (bytesOf 0x0010 ++ bytesOf (s.sp + 2)) s u

/-- Whenever step answers a next state, the queue there is the old one, what arrived before step 1, at most one overrun
record of the cycle, and what arrived before step 4, in that order, less its first record; the schedule has moved on
by one cycle; and if an overrun record was enqueued the machine is Halted. The schedule is the model's field (log
3). -/
def Obligations.StepTakesAtMostTheOldestRecord : Prop :=
  ∀ s t : State, step s = .next t →
    ∃ o : List Record, (o = [] ∨ o = [{ code := Config.irOverflowCode, reason := .irOverflow }] ∧ t.status = .halted) ∧
      t.irq = (s.irq ++ recordsOf s.earlyEvents ++ o ++ recordsOf s.lateEvents).tail ∧ t.inputs = s.inputs.tail

/-- If a record r stands in the queue behind n others and n + 1 steps from there answer a next state, then the last of
them delivered r: INTERRUPT holds r's code, and the queue is what stood behind r followed by later arrivals. -/
def Obligations.QueuedRecordIsDeliveredInTurn : Prop :=
  ∀ (ahead behind : List Record) (r : Record) (s t : State), s.irq = ahead ++ r :: behind →
    Host.Core.run Sys2Proof.core (ahead.length + 1) s = .next t →
    t.word 0x0010 = r.code ∧ ∃ later, t.irq = behind ++ later

/-- At reset CP is 0x2000, SP 0x0100, INTERRUPT 0xFFFF, the word at 0x1FFE 0x0001, the word at 0x2000 0x0016; the
palette byte 0x1F00 + k is the open parameter's k-th byte for k below 16; every other byte below 0x10000 is 0;
running is true, the status Running, the queue empty and open, the latches 0. The queue empty and open at boot is
the spec's own decision D20 (log 21), the palette's extent D21 (log 4), the display mode D22 and the sentinel D23
(log 22), running and the latches D25 (log 24), the value of INTERRUPT D2 (log 9). -/
def Obligations.ResetWordsAndBytes : Prop :=
  let s := State.reset
  s.cp = 0x2000 ∧ s.sp = 0x0100 ∧ s.word 0x0010 = 0xFFFF ∧ s.word 0x1FFE = 0x0001 ∧ s.word 0x2000 = 0x0016 ∧
  (∀ k, k < 16 → s.byte (0x1F00 + k) = Config.paletteInit k) ∧
  (∀ x, x < 0x10000 → x ∉ [0x0000, 0x0002, 0x0010, 0x0011, 0x1FFF, 0x2001] → (x < 0x1F00 ∨ 0x1F10 ≤ x) → s.byte x = 0) ∧
  s.running = true ∧ s.status = .running ∧ s.irq = [] ∧ s.irqClosed = false ∧
  s.latches = { nextWord := 0, mode := 0, opcode := 0, arg0 := 0, arg1 := 0 }

/-- An image of at most 0xE000 bytes boots: the byte at 0x2000 + k is the image's k-th, every byte outside it holds its
reset value, and everything outside memory is as at reset; a longer image is refused with the first address outside
memory, and the machine never runs. The limit is the spec's decision D34 (log 29). -/
def Obligations.ImageIsLoadedAtCodeBase : Prop :=
  ∀ image : List Byte,
    (image.length ≤ 0xE000 →
      ∃ s, State.boot image = .ok s ∧ (∀ k (h : k < image.length), s.byte (0x2000 + k) = image[k]) ∧
        (∀ x, (x < 0x2000 ∨ 0x2000 + image.length ≤ x) → s.byte x = State.reset.byte x) ∧
        keepsOutside State.reset s ∧ s.running = true) ∧
    (0xE000 < image.length → State.boot image = .error 0x10000)

/-- Draw gives width 80, height 24 and exactly the bytes M[0x1000] to M[0x1FFD] in order, 4094 of them, and leaves the
state as it is. That it has no effect is the spec's decision D30 (log 26). -/
def Obligations.DrawShowsTheFramebuffer : Prop :=
  ∀ s : State, (draw s).2 = s ∧ (draw s).1.width = 80 ∧ (draw s).1.height = 24 ∧ (draw s).1.bytes.length = 4094 ∧
    ∀ k, k < 4094 → (draw s).1.bytes[k]? = some (s.byte (0x1000 + k))

/-- At reset the memory is in canonical form and running agrees with the status. The canonical form is the model's
choice (log 6). -/
def Obligations.ResetKeepsTheInvariant : Prop :=
  State.reset.Inv

/-- From every state that meets the invariant, reached or not, if step answers a next state then that state meets it:
the memory is in canonical form, and running is true exactly while the status is Running. The canonical form is the
model's choice (log 6). -/
def Obligations.StepKeepsTheInvariant : Prop :=
  ∀ s t : State, s.Inv → step s = .next t → t.Inv
end

