-- ==== Sys2Proof/Laws/Bytes.lean ====
section
/-! SUPPORT. Laws of the two bytes of a word. -/

namespace Sys2Proof.Machine

theorem getLsbD_joinBytes (hi lo : Byte) (i : Nat) :
    (joinBytes hi lo).getLsbD i = if i < 8 then lo.getLsbD i else hi.getLsbD (i - 8) :=
  BitVec.getLsbD_append.trans (by split <;> simp_all)

@[simp] theorem highByte_joinBytes (hi lo : Byte) : highByte (joinBytes hi lo) = hi := by
  apply BitVec.eq_of_getLsbD_eq
  intro i h
  simp [highByte, getLsbD_joinBytes, h]

@[simp] theorem lowByte_joinBytes (hi lo : Byte) : lowByte (joinBytes hi lo) = lo := by
  apply BitVec.eq_of_getLsbD_eq
  intro i h
  simp [lowByte, getLsbD_joinBytes, h]

@[simp] theorem joinBytes_high_low (w : Word) : joinBytes (highByte w) (lowByte w) = w := by
  apply BitVec.eq_of_getLsbD_eq
  intro i h
  rw [getLsbD_joinBytes]
  split
  · rename_i h8
    simp [lowByte, h8]
  · rename_i h8
    have hlt : i - 8 < 8 := by omega
    have hsum : 8 + (i - 8) = i := by omega
    simp [highByte, hlt, hsum]

theorem joinBytes_inj {a b c d : Byte} (h : joinBytes a b = joinBytes c d) : a = c ∧ b = d :=
  ⟨by simpa using congrArg highByte h, by simpa using congrArg lowByte h⟩

/-- The value of `hi ++ lo` is hi * 256 + lo (R11). -/
theorem toNat_joinBytes (hi lo : Byte) : (joinBytes hi lo).toNat = hi.toNat * 256 + lo.toNat := by
  have h := BitVec.toNat_append hi lo
  have hlo := lo.isLt
  rw [← Nat.shiftLeft_add_eq_or_of_lt hlo, Nat.shiftLeft_eq] at h
  exact h

end Sys2Proof.Machine
end

