-- ==== Sys2Proof/Laws/Memory.lean ====
section
/-! SUPPORT. Laws of memory: a read after a write, the bytes a write leaves alone, and the canonical form, which every
memory operation keeps. None but the last needs the canonical form. -/

namespace Sys2Proof.Machine

theorem lookupCell_dropCell_ne {a b : Nat} (h : b ≠ a) (cells : List Host.Cell) :
    lookupCell (dropCell a cells) b = lookupCell cells b := by
  induction cells with
  | nil => rfl
  | cons c rest ih =>
    obtain ⟨k, v⟩ := c
    by_cases hk : k = a
    · subst hk
      have hkb : ¬ k = b := fun e => h e.symm
      simpa [dropCell, lookupCell, hkb] using ih
    · by_cases hb : k = b <;> simp_all [dropCell, lookupCell]

theorem lookupCell_dropCell_self (a : Nat) (cells : List Host.Cell) : lookupCell (dropCell a cells) a = bootByte a := by
  induction cells with
  | nil => rfl
  | cons c rest ih =>
    obtain ⟨k, v⟩ := c
    by_cases hk : k = a <;> simp_all [dropCell, lookupCell]

theorem lookupCell_insertCell_ne {a b : Nat} (h : b ≠ a) (v : Byte) (cells : List Host.Cell) :
    lookupCell (insertCell a v cells) b = lookupCell cells b := by
  induction cells with
  | nil => simp [insertCell, lookupCell, h.symm]
  | cons c rest ih =>
    obtain ⟨k, w⟩ := c
    by_cases hlt : a < k
    · simp [insertCell, lookupCell, hlt, h.symm]
    · simp [insertCell, lookupCell, hlt, ih]

theorem lookupCell_insertCell_self (a : Nat) (v : Byte) (cells : List Host.Cell)
    (h : ∀ c ∈ cells, c.1 ≠ a) : lookupCell (insertCell a v cells) a = v := by
  induction cells with
  | nil => simp [insertCell, lookupCell]
  | cons c rest ih =>
    obtain ⟨k, w⟩ := c
    have hk : k ≠ a := h (k, w) (by simp)
    by_cases hlt : a < k
    · simp [insertCell, lookupCell, hlt]
    · simpa [insertCell, lookupCell, hlt, hk] using ih fun c hc => h c (by simp [hc])

theorem lookupCell_storeCell (a b : Nat) (v : Byte) (cells : List Host.Cell) :
    lookupCell (storeCell a v cells) b = if b = a then v else lookupCell cells b := by
  by_cases h : b = a
  · subst h
    by_cases hv : v = bootByte b
    · simp [storeCell, hv, lookupCell_dropCell_self]
    · simp [storeCell, hv, lookupCell_insertCell_self, dropCell]
  · by_cases hv : v = bootByte a
    · simp [storeCell, hv, h, lookupCell_dropCell_ne h]
    · simp [storeCell, hv, h, lookupCell_insertCell_ne h, lookupCell_dropCell_ne h]

theorem paletteIndex_eq_some {a : Nat} {k : Fin 16} (h : paletteIndex a = some k) : a = outColors + k := by
  unfold paletteIndex at h
  split at h
  · simp only [Option.some.injEq] at h
    subst h
    simp
    omega
  · cases h

theorem paletteIndex_inj {a b : Nat} {k : Fin 16} (ha : paletteIndex a = some k) (hb : paletteIndex b = some k) :
    a = b := by rw [paletteIndex_eq_some ha, paletteIndex_eq_some hb]

theorem inRange_of_paletteIndex {a : Nat} {k : Fin 16} (h : paletteIndex a = some k) : inRange a := by
  have := paletteIndex_eq_some h
  have := k.isLt
  simp only [outColors] at *
  simp only [inRange, memSize]
  omega

/-- Every 16-bit address is in range (R53, R20). -/
theorem inRange_toNat (a : Word) : inRange a.toNat := a.isLt

/-- A byte stored out of range is no byte of the array: nothing changes. -/
theorem Memory.setByte_of_not_inRange (m : Memory) {a : Nat} (v : Byte) (h : ¬ inRange a) : m.setByte a v = m := by
  unfold Memory.setByte
  cases hp : paletteIndex a with
  | some k => exact absurd (inRange_of_paletteIndex hp) h
  | none => simp [h]

/-- A byte reads back as it was stored. -/
@[simp] theorem Memory.byteAt_setByte_self (m : Memory) {a : Nat} (v : Byte) (h : inRange a) :
    (m.setByte a v).byteAt a = v := by
  unfold Memory.setByte Memory.byteAt
  cases hp : paletteIndex a with
  | some k => simp
  | none => simp [h, lookupCell_storeCell]

/-- A byte store leaves every other byte alone. -/
theorem Memory.byteAt_setByte_ne (m : Memory) {a b : Nat} (v : Byte) (h : b ≠ a) :
    (m.setByte a v).byteAt b = m.byteAt b := by
  unfold Memory.setByte Memory.byteAt
  cases hp : paletteIndex a with
  | some k =>
    cases hb : paletteIndex b with
    | some j =>
      have hjk : j ≠ k := fun e => h (paletteIndex_inj (e ▸ hb) hp)
      have hval : (k : Nat) ≠ j := fun e => hjk (Fin.ext e.symm)
      simp [hval]
    | none => rfl
  | none =>
    cases hb : paletteIndex b with
    | some j => by_cases hm : inRange a <;> simp [hm]
    | none => by_cases hm : inRange a <;> simp [hm, lookupCell_storeCell, h]

theorem dropCell_pairwise (a : Nat) {cells : List Host.Cell} (h : cells.Pairwise fun c d => c.1 < d.1) :
    (dropCell a cells).Pairwise fun c d => c.1 < d.1 := h.filter _

theorem mem_dropCell {a : Nat} {cells : List Host.Cell} {c : Host.Cell} :
    c ∈ dropCell a cells ↔ c ∈ cells ∧ c.1 ≠ a := by simp [dropCell]

theorem mem_insertCell {a : Nat} {v : Byte} {cells : List Host.Cell} {c : Host.Cell} :
    c ∈ insertCell a v cells ↔ c = (a, v) ∨ c ∈ cells := by
  induction cells with
  | nil => simp [insertCell]
  | cons d rest ih =>
    obtain ⟨k, w⟩ := d
    by_cases hlt : a < k
    · simp [insertCell, hlt]
    · simp only [insertCell, hlt, if_false, List.mem_cons, ih]
      tauto

theorem insertCell_pairwise {a : Nat} (v : Byte) {cells : List Host.Cell} (hs : cells.Pairwise fun c d => c.1 < d.1)
    (hne : ∀ c ∈ cells, c.1 ≠ a) : (insertCell a v cells).Pairwise fun c d => c.1 < d.1 := by
  induction cells with
  | nil => simp [insertCell]
  | cons d rest ih =>
    obtain ⟨k, w⟩ := d
    obtain ⟨hk, hrest⟩ := List.pairwise_cons.1 hs
    by_cases hlt : a < k
    · simp only [insertCell, hlt, if_true, List.pairwise_cons]
      refine ⟨fun c hc => ?_, hk, hrest⟩
      rcases List.mem_cons.1 hc with rfl | hc
      · exact hlt
      · exact Nat.lt_trans hlt (hk c hc)
    · have hka : k ≠ a := hne (k, w) (by simp)
      simp only [insertCell, hlt, if_false, List.pairwise_cons]
      refine ⟨fun c hc => ?_, ih hrest fun c hc => hne c (by simp [hc])⟩
      rcases mem_insertCell.1 hc with rfl | hc
      · simp only
        omega
      · exact hk c hc

/-- A byte store keeps the canonical form. -/
theorem Memory.setByte_wf {m : Memory} (a : Nat) (v : Byte) (h : m.wf) : (m.setByte a v).wf := by
  unfold Memory.setByte
  split
  · exact h
  · rename_i hp
    split
    · rename_i hm
      obtain ⟨hs, hc⟩ := h
      have hdrop := dropCell_pairwise a hs
      by_cases hv : v = bootByte a
      · refine ⟨by simpa [storeCell, hv] using hdrop, fun c hcm => hc c ?_⟩
        exact (mem_dropCell.1 (by simpa [storeCell, hv] using hcm)).1
      · refine ⟨?_, fun c hcm => ?_⟩
        · simpa [storeCell, hv] using insertCell_pairwise v hdrop fun c hc => (mem_dropCell.1 hc).2
        · rcases mem_insertCell.1 (by simpa [storeCell, hv] using hcm) with rfl | hcm
          · exact ⟨hm, hp, hv⟩
          · exact hc c (mem_dropCell.1 hcm).1
    · exact h

/-- A word store keeps the canonical form. -/
theorem Memory.setWord_wf {m : Memory} (a : Nat) (w : Word) (h : m.wf) : (m.setWord a w).wf :=
  Memory.setByte_wf _ _ (Memory.setByte_wf _ _ h)

/-- Storing a byte sequence keeps the canonical form. -/
theorem Memory.setBytes_wf {m : Memory} (a : Nat) (vs : List Byte) (h : m.wf) : (m.setBytes a vs).wf := by
  induction vs generalizing m a with
  | nil => exact h
  | cons v vs ih => exact ih _ (Memory.setByte_wf _ _ h)

/-- Memory after boot is in canonical form. -/
theorem Memory.atReset_wf : Memory.atReset.wf := by decide

/-- A word store leaves every byte outside its two alone. -/
theorem Memory.byteAt_setWord_ne (m : Memory) {a x : Nat} (w : Word) (h : x ≠ a) (h' : x ≠ a + 1) :
    (m.setWord a w).byteAt x = m.byteAt x := by
  rw [Memory.setWord, Memory.byteAt_setByte_ne _ _ h', Memory.byteAt_setByte_ne _ _ h]

/-- The high byte of a stored word stands at its address. -/
theorem Memory.byteAt_setWord_high (m : Memory) {a : Nat} (w : Word) (h : inRange a) :
    (m.setWord a w).byteAt a = highByte w := by
  rw [Memory.setWord, Memory.byteAt_setByte_ne _ _ (by omega), Memory.byteAt_setByte_self _ _ h]

/-- The low byte of a stored word stands one above its address. -/
theorem Memory.byteAt_setWord_low (m : Memory) {a : Nat} (w : Word) (h : inRange (a + 1)) :
    (m.setWord a w).byteAt (a + 1) = lowByte w := by
  rw [Memory.setWord, Memory.byteAt_setByte_self _ _ h]

/-- A word reads back as it was stored. -/
theorem Memory.wordAt_setWord_self (m : Memory) {a : Nat} (w : Word) (h : inRange (a + 1)) :
    (m.setWord a w).wordAt a = w := by
  rw [Memory.wordAt, Memory.byteAt_setWord_high _ _ (by omega), Memory.byteAt_setWord_low _ _ h, joinBytes_high_low]

/-- A word store leaves a word that shares no byte with it alone. -/
theorem Memory.wordAt_setWord_disjoint (m : Memory) {a b : Nat} (w : Word) (h : b + 1 < a ∨ a + 1 < b) :
    (m.setWord a w).wordAt b = m.wordAt b := by
  rw [Memory.wordAt, Memory.wordAt, Memory.byteAt_setWord_ne _ _ (by omega) (by omega),
    Memory.byteAt_setWord_ne _ _ (by omega) (by omega)]

/-- Storing a byte sequence leaves every byte outside it alone. -/
theorem Memory.byteAt_setBytes_outside (m : Memory) {a x : Nat} (vs : List Byte) (h : x < a ∨ a + vs.length ≤ x) :
    (m.setBytes a vs).byteAt x = m.byteAt x := by
  induction vs generalizing m a with
  | nil => rfl
  | cons v vs ih =>
    simp only [List.length_cons] at h
    rw [Memory.setBytes, ih _ (by omega), Memory.byteAt_setByte_ne _ _ (by omega)]

/-- Two words whose bytes agree are equal. -/
theorem Memory.wordAt_congr {m n : Memory} {a : Nat} (h : n.byteAt a = m.byteAt a)
    (h' : n.byteAt (a + 1) = m.byteAt (a + 1)) : n.wordAt a = m.wordAt a := by
  rw [Memory.wordAt, Memory.wordAt, h, h']

end Sys2Proof.Machine
end

