-- ==== Sys2Proof/Laws/State.lean ====
section
/-! SUPPORT. One lemma per field per update of the state, true by rfl, so that no later proof unfolds an update. -/

namespace Sys2Proof.Machine

@[simp] theorem State.putWord_mem (s : State) (a v : Word) : (s.putWord a v).mem = s.mem.setWord a.toNat v := rfl
@[simp] theorem State.putWord_latches (s : State) (a v : Word) : (s.putWord a v).latches = s.latches := rfl
@[simp] theorem State.putWord_running (s : State) (a v : Word) : (s.putWord a v).running = s.running := rfl
@[simp] theorem State.putWord_status (s : State) (a v : Word) : (s.putWord a v).status = s.status := rfl
@[simp] theorem State.putWord_irq (s : State) (a v : Word) : (s.putWord a v).irq = s.irq := rfl
@[simp] theorem State.putWord_irqClosed (s : State) (a v : Word) : (s.putWord a v).irqClosed = s.irqClosed := rfl
@[simp] theorem State.putWord_inputs (s : State) (a v : Word) : (s.putWord a v).inputs = s.inputs := rfl

@[simp] theorem State.setCp_mem (s : State) (t : Word) : (s.setCp t).mem = s.mem.setWord 0x0000 t := rfl
@[simp] theorem State.setCp_latches (s : State) (t : Word) : (s.setCp t).latches = s.latches := rfl
@[simp] theorem State.setCp_running (s : State) (t : Word) : (s.setCp t).running = s.running := rfl
@[simp] theorem State.setCp_status (s : State) (t : Word) : (s.setCp t).status = s.status := rfl
@[simp] theorem State.setCp_irq (s : State) (t : Word) : (s.setCp t).irq = s.irq := rfl
@[simp] theorem State.setCp_irqClosed (s : State) (t : Word) : (s.setCp t).irqClosed = s.irqClosed := rfl
@[simp] theorem State.setCp_inputs (s : State) (t : Word) : (s.setCp t).inputs = s.inputs := rfl

@[simp] theorem State.setSp_mem (s : State) (v : Word) : (s.setSp v).mem = s.mem.setWord 0x0002 v := rfl
@[simp] theorem State.setSp_latches (s : State) (v : Word) : (s.setSp v).latches = s.latches := rfl
@[simp] theorem State.setSp_running (s : State) (v : Word) : (s.setSp v).running = s.running := rfl
@[simp] theorem State.setSp_status (s : State) (v : Word) : (s.setSp v).status = s.status := rfl
@[simp] theorem State.setSp_irq (s : State) (v : Word) : (s.setSp v).irq = s.irq := rfl
@[simp] theorem State.setSp_irqClosed (s : State) (v : Word) : (s.setSp v).irqClosed = s.irqClosed := rfl
@[simp] theorem State.setSp_inputs (s : State) (v : Word) : (s.setSp v).inputs = s.inputs := rfl

@[simp] theorem State.raise_mem (s : State) (r : Record) : (s.raise r).mem = s.mem := rfl
@[simp] theorem State.raise_latches (s : State) (r : Record) : (s.raise r).latches = s.latches := rfl
@[simp] theorem State.raise_running (s : State) (r : Record) : (s.raise r).running = s.running := rfl
@[simp] theorem State.raise_status (s : State) (r : Record) : (s.raise r).status = s.status := rfl
@[simp] theorem State.raise_irq (s : State) (r : Record) : (s.raise r).irq = s.irq ++ [r] := rfl
@[simp] theorem State.raise_irqClosed (s : State) (r : Record) : (s.raise r).irqClosed = s.irqClosed := rfl
@[simp] theorem State.raise_inputs (s : State) (r : Record) : (s.raise r).inputs = s.inputs := rfl

@[simp] theorem State.stopRunning_mem (s : State) : s.stopRunning.mem = s.mem := rfl
@[simp] theorem State.stopRunning_latches (s : State) : s.stopRunning.latches = s.latches := rfl
@[simp] theorem State.stopRunning_running (s : State) : s.stopRunning.running = false := rfl
@[simp] theorem State.stopRunning_status (s : State) : s.stopRunning.status = s.status := rfl
@[simp] theorem State.stopRunning_irq (s : State) : s.stopRunning.irq = s.irq := rfl
@[simp] theorem State.stopRunning_irqClosed (s : State) : s.stopRunning.irqClosed = s.irqClosed := rfl
@[simp] theorem State.stopRunning_inputs (s : State) : s.stopRunning.inputs = s.inputs := rfl

@[simp] theorem State.withQueue_mem (s : State) (q : List Record) : (s.withQueue q).mem = s.mem := rfl
@[simp] theorem State.withQueue_latches (s : State) (q : List Record) : (s.withQueue q).latches = s.latches := rfl
@[simp] theorem State.withQueue_running (s : State) (q : List Record) : (s.withQueue q).running = s.running := rfl
@[simp] theorem State.withQueue_status (s : State) (q : List Record) : (s.withQueue q).status = s.status := rfl
@[simp] theorem State.withQueue_irq (s : State) (q : List Record) : (s.withQueue q).irq = q := rfl
@[simp] theorem State.withQueue_irqClosed (s : State) (q : List Record) : (s.withQueue q).irqClosed = s.irqClosed := rfl
@[simp] theorem State.withQueue_inputs (s : State) (q : List Record) : (s.withQueue q).inputs = s.inputs := rfl

@[simp] theorem State.failed_mem (s : State) (k : FatalKind) : (s.failed k).mem = s.mem := rfl
@[simp] theorem State.failed_latches (s : State) (k : FatalKind) : (s.failed k).latches = s.latches := rfl
@[simp] theorem State.failed_running (s : State) (k : FatalKind) : (s.failed k).running = false := rfl
@[simp] theorem State.failed_status (s : State) (k : FatalKind) : (s.failed k).status = .fatal k := rfl
@[simp] theorem State.failed_irq (s : State) (k : FatalKind) : (s.failed k).irq = s.irq := rfl
@[simp] theorem State.failed_irqClosed (s : State) (k : FatalKind) : (s.failed k).irqClosed = s.irqClosed := rfl
@[simp] theorem State.failed_inputs (s : State) (k : FatalKind) : (s.failed k).inputs = s.inputs := rfl

@[simp] theorem State.advanceInputs_mem (s : State) : s.advanceInputs.mem = s.mem := rfl
@[simp] theorem State.advanceInputs_latches (s : State) : s.advanceInputs.latches = s.latches := rfl
@[simp] theorem State.advanceInputs_running (s : State) : s.advanceInputs.running = s.running := rfl
@[simp] theorem State.advanceInputs_status (s : State) : s.advanceInputs.status = s.status := rfl
@[simp] theorem State.advanceInputs_irq (s : State) : s.advanceInputs.irq = s.irq := rfl
@[simp] theorem State.advanceInputs_irqClosed (s : State) : s.advanceInputs.irqClosed = s.irqClosed := rfl
@[simp] theorem State.advanceInputs_inputs (s : State) : s.advanceInputs.inputs = s.inputs.tail := rfl

@[simp] theorem State.latchWord_mem (s : State) (w : Word) : (s.latchWord w).mem = s.mem := rfl
@[simp] theorem State.latchWord_latches (s : State) (w : Word) : (s.latchWord w).latches = { s.latches with nextWord := w } := rfl
@[simp] theorem State.latchWord_running (s : State) (w : Word) : (s.latchWord w).running = s.running := rfl
@[simp] theorem State.latchWord_status (s : State) (w : Word) : (s.latchWord w).status = s.status := rfl
@[simp] theorem State.latchWord_irq (s : State) (w : Word) : (s.latchWord w).irq = s.irq := rfl
@[simp] theorem State.latchWord_irqClosed (s : State) (w : Word) : (s.latchWord w).irqClosed = s.irqClosed := rfl
@[simp] theorem State.latchWord_inputs (s : State) (w : Word) : (s.latchWord w).inputs = s.inputs := rfl

@[simp] theorem State.latchFields_mem (s : State) (h : Word) : (s.latchFields h).mem = s.mem := rfl
@[simp] theorem State.latchFields_latches (s : State) (h : Word) : (s.latchFields h).latches = { s.latches with mode := highByte h, opcode := lowByte h } := rfl
@[simp] theorem State.latchFields_running (s : State) (h : Word) : (s.latchFields h).running = s.running := rfl
@[simp] theorem State.latchFields_status (s : State) (h : Word) : (s.latchFields h).status = s.status := rfl
@[simp] theorem State.latchFields_irq (s : State) (h : Word) : (s.latchFields h).irq = s.irq := rfl
@[simp] theorem State.latchFields_irqClosed (s : State) (h : Word) : (s.latchFields h).irqClosed = s.irqClosed := rfl
@[simp] theorem State.latchFields_inputs (s : State) (h : Word) : (s.latchFields h).inputs = s.inputs := rfl

@[simp] theorem State.latchArg_mem (s : State) (k : Nat) (w : Word) : (s.latchArg k w).mem = s.mem := rfl
@[simp] theorem State.latchArg_latches (s : State) (k : Nat) (w : Word) : (s.latchArg k w).latches = if k = 0 then { s.latches with arg0 := w } else { s.latches with arg1 := w } := rfl
@[simp] theorem State.latchArg_running (s : State) (k : Nat) (w : Word) : (s.latchArg k w).running = s.running := rfl
@[simp] theorem State.latchArg_status (s : State) (k : Nat) (w : Word) : (s.latchArg k w).status = s.status := rfl
@[simp] theorem State.latchArg_irq (s : State) (k : Nat) (w : Word) : (s.latchArg k w).irq = s.irq := rfl
@[simp] theorem State.latchArg_irqClosed (s : State) (k : Nat) (w : Word) : (s.latchArg k w).irqClosed = s.irqClosed := rfl
@[simp] theorem State.latchArg_inputs (s : State) (k : Nat) (w : Word) : (s.latchArg k w).inputs = s.inputs := rfl

@[simp] theorem State.reset_mem : State.reset.mem = Memory.atReset := rfl
@[simp] theorem State.reset_irq : State.reset.irq = [] := rfl
@[simp] theorem State.reset_irqClosed : State.reset.irqClosed = false := rfl
@[simp] theorem State.reset_running : State.reset.running = true := rfl
@[simp] theorem State.reset_status : State.reset.status = .running := rfl
@[simp] theorem State.reset_inputs : State.reset.inputs = [] := rfl

theorem State.cp_eq (s : State) : s.cp = s.mem.wordAt 0x0000 := rfl
theorem State.sp_eq (s : State) : s.sp = s.mem.wordAt 0x0002 := rfl
theorem State.setCp_eq (s : State) (t : Word) : s.setCp t = s.putWord 0x0000 t := rfl
theorem State.setSp_eq (s : State) (v : Word) : s.setSp v = s.putWord 0x0002 v := rfl
theorem State.word_eq (s : State) (a : Word) : s.word a = s.mem.wordAt a.toNat := rfl
theorem State.byte_eq (s : State) (x : Nat) : s.byte x = s.mem.byteAt x := rfl

@[simp] theorem State.arrive_mem (s : State) (e : HostEvent) : (s.arrive e).mem = s.mem := by cases e <;> rfl
@[simp] theorem State.arrive_latches (s : State) (e : HostEvent) : (s.arrive e).latches = s.latches := by cases e <;> rfl
@[simp] theorem State.arrive_running (s : State) (e : HostEvent) : (s.arrive e).running = s.running := by cases e <;> rfl
@[simp] theorem State.arrive_status (s : State) (e : HostEvent) : (s.arrive e).status = s.status := by cases e <;> rfl
@[simp] theorem State.arrive_inputs (s : State) (e : HostEvent) : (s.arrive e).inputs = s.inputs := by cases e <;> rfl

@[simp] theorem State.arriveAll_mem (s : State) (es : List HostEvent) : (s.arriveAll es).mem = s.mem := by
  induction es generalizing s with
  | nil => rfl
  | cons e es ih => exact (ih (s.arrive e)).trans (s.arrive_mem e)

@[simp] theorem State.arriveAll_latches (s : State) (es : List HostEvent) : (s.arriveAll es).latches = s.latches := by
  induction es generalizing s with
  | nil => rfl
  | cons e es ih => exact (ih (s.arrive e)).trans (s.arrive_latches e)

@[simp] theorem State.arriveAll_running (s : State) (es : List HostEvent) : (s.arriveAll es).running = s.running := by
  induction es generalizing s with
  | nil => rfl
  | cons e es ih => exact (ih (s.arrive e)).trans (s.arrive_running e)

@[simp] theorem State.arriveAll_status (s : State) (es : List HostEvent) : (s.arriveAll es).status = s.status := by
  induction es generalizing s with
  | nil => rfl
  | cons e es ih => exact (ih (s.arrive e)).trans (s.arrive_status e)

@[simp] theorem State.arriveAll_inputs (s : State) (es : List HostEvent) : (s.arriveAll es).inputs = s.inputs := by
  induction es generalizing s with
  | nil => rfl
  | cons e es ih => exact (ih (s.arrive e)).trans (s.arrive_inputs e)

@[simp] theorem State.arriveEarly_mem (s : State) : s.arriveEarly.mem = s.mem := s.arriveAll_mem _
@[simp] theorem State.arriveEarly_latches (s : State) : s.arriveEarly.latches = s.latches := s.arriveAll_latches _
@[simp] theorem State.arriveEarly_running (s : State) : s.arriveEarly.running = s.running := s.arriveAll_running _
@[simp] theorem State.arriveEarly_status (s : State) : s.arriveEarly.status = s.status := s.arriveAll_status _
@[simp] theorem State.arriveEarly_inputs (s : State) : s.arriveEarly.inputs = s.inputs := s.arriveAll_inputs _
@[simp] theorem State.arriveLate_mem (s : State) : s.arriveLate.mem = s.mem := s.arriveAll_mem _
@[simp] theorem State.arriveLate_latches (s : State) : s.arriveLate.latches = s.latches := s.arriveAll_latches _
@[simp] theorem State.arriveLate_running (s : State) : s.arriveLate.running = s.running := s.arriveAll_running _
@[simp] theorem State.arriveLate_status (s : State) : s.arriveLate.status = s.status := s.arriveAll_status _
@[simp] theorem State.arriveLate_inputs (s : State) : s.arriveLate.inputs = s.inputs.tail :=
  congrArg List.tail (s.arriveAll_inputs _)

end Sys2Proof.Machine
end

