-- ==== Sys2Proof/Laws/Fetch.lean ====
section
/-! SUPPORT. What the fetch unit can do, once for each of its parts (40_engine.md R101 to R106). -/

namespace Sys2Proof.Machine

theorem fetchWord_of_le {s : State} (h : s.cp.toNat ≤ fetchLimit) :
    fetchWord s = .word (s.word s.cp) (s.setCp (s.cp + 2)) := if_neg (Nat.not_lt.2 h)

theorem fetchWord_of_gt {s : State} (h : fetchLimit < s.cp.toNat) :
    fetchWord s = .overrun haltWord (s.raise codeOverrun) := if_pos h

/-- What any part of the fetch leaves of a state: the queue with `q` behind it, the canonical form, every byte from 0x0002
on, and everything else but the latches. -/
structure FetchKeeps (q : List Record) (s u : State) : Prop where
  irq : u.irq = s.irq ++ q
  irqClosed : u.irqClosed = s.irqClosed
  running : u.running = s.running
  status : u.status = s.status
  inputs : u.inputs = s.inputs
  wf : s.mem.wf → u.mem.wf
  byte : ∀ x, 2 ≤ x → u.byte x = s.byte x

theorem FetchKeeps.refl (s : State) : FetchKeeps [] s s :=
  ⟨(List.append_nil _).symm, rfl, rfl, rfl, rfl, id, fun _ _ => rfl⟩

theorem FetchKeeps.trans {q r : List Record} {s u v : State} (h : FetchKeeps q s u) (k : FetchKeeps r u v) :
    FetchKeeps (q ++ r) s v :=
  ⟨by rw [k.irq, h.irq, List.append_assoc], k.irqClosed.trans h.irqClosed, k.running.trans h.running,
    k.status.trans h.status, k.inputs.trans h.inputs, k.wf ∘ h.wf, fun x hx => (k.byte x hx).trans (h.byte x hx)⟩

theorem fetchKeeps_setCp (s : State) (t : Word) : FetchKeeps [] s (s.setCp t) :=
  ⟨(List.append_nil _).symm, rfl, rfl, rfl, rfl, Memory.setWord_wf _ _, fun x hx =>
    Memory.byteAt_setWord_ne _ _ (show x ≠ 0 by omega) (show x ≠ 1 by omega)⟩

theorem fetchKeeps_raise (s : State) (r : Record) : FetchKeeps [r] s (s.raise r) :=
  ⟨rfl, rfl, rfl, rfl, rfl, id, fun _ _ => rfl⟩

theorem fetchKeeps_latchArg (s : State) (k : Nat) (w : Word) : FetchKeeps [] s (s.latchArg k w) :=
  ⟨(List.append_nil _).symm, rfl, rfl, rfl, rfl, id, fun _ _ => rfl⟩

theorem fetchKeeps_latchHeader (s : State) (w : Word) : FetchKeeps [] s ((s.latchWord w).latchFields w) :=
  ⟨(List.append_nil _).symm, rfl, rfl, rfl, rfl, id, fun _ _ => rfl⟩

/-- The operand fetch either fetches all its words or overruns, with one overrun record enqueued. -/
theorem fetchArgs_cases (n k : Nat) (s : State) :
    (∃ u, fetchArgs n k s = .done u ∧ FetchKeeps [] s u) ∨
      ∃ u, fetchArgs n k s = .overrun u ∧ FetchKeeps [codeOverrun] s u := by
  induction n generalizing k s with
  | zero => exact .inl ⟨s, rfl, .refl s⟩
  | succ n ih =>
    unfold fetchArgs
    by_cases h : fetchLimit < s.cp.toNat
    · rw [fetchWord_of_gt h]
      exact .inr ⟨_, rfl, fetchKeeps_raise s _⟩
    · rw [fetchWord_of_le (Nat.not_lt.1 h)]
      have here := (fetchKeeps_setCp s (s.cp + 2)).trans (fetchKeeps_latchArg _ k (s.word s.cp))
      rcases ih (k + 1) ((s.setCp (s.cp + 2)).latchArg k (s.word s.cp)) with ⟨u, hu, hk⟩ | ⟨u, hu, hk⟩
      · exact .inl ⟨u, hu, here.trans hk⟩
      · exact .inr ⟨u, hu, here.trans hk⟩

/-- A fetch reads an instruction, overruns with one record enqueued, or reads an illegal header. -/
theorem fetchInstr_cases (s : State) :
    (∃ i u, fetchInstr s = .decoded i u ∧ FetchKeeps [] s u) ∨
      (∃ u, fetchInstr s = .overrun u ∧ FetchKeeps [codeOverrun] s u) ∨
        ∃ h u, fetchInstr s = .illegal h u ∧ FetchKeeps [] s u := by
  unfold fetchInstr
  by_cases hc : fetchLimit < s.cp.toNat
  · rw [fetchWord_of_gt hc]
    exact .inr (.inl ⟨_, rfl, ⟨rfl, rfl, rfl, rfl, rfl, id, fun _ _ => rfl⟩⟩)
  · rw [fetchWord_of_le (Nat.not_lt.1 hc)]
    dsimp only
    generalize s.word s.cp = header
    have base := (fetchKeeps_setCp s (s.cp + 2)).trans (fetchKeeps_latchHeader _ header)
    generalize ((s.setCp (s.cp + 2)).latchWord header).latchFields header = s2 at base
    cases Mode.ofByte (highByte header) with
    | none => exact .inr (.inr ⟨_, _, rfl, base⟩)
    | some m =>
      rcases fetchArgs_cases m.operandCount 0 s2 with ⟨u, hu, hk⟩ | ⟨u, hu, hk⟩
      · simp only [hu]
        cases decodeFields header u.latches.arg0 u.latches.arg1 with
        | ok i => exact .inl ⟨_, _, rfl, base.trans hk⟩
        | error _ => exact .inr (.inr ⟨_, _, rfl, base.trans hk⟩)
      · simp only [hu]
        exact .inr (.inl ⟨_, rfl, base.trans hk⟩)

end Sys2Proof.Machine
end

