-- ==== Sys2Proof/Laws/Ops.lean ====
section
/-! SUPPORT. For each shared operation, one lemma that says everything it can do when it answers a next state, and what
it does where an access does not fit. Later proofs cite these instead of unfolding the operations. -/

namespace Sys2Proof.Machine

variable {s t : State} {k : Word → Out}

theorem wordFits_iff {a : Word} : wordFits a = true ↔ a ≠ 0xFFFF := by
  have hlt := a.isLt
  have htop : (0xFFFF : Word).toNat = 65535 := rfl
  have heq : a = 0xFFFF ↔ a.toNat = 65535 := by rw [← BitVec.toNat_inj, htop]
  rw [ne_eq, heq, wordFits, decide_eq_true_iff, inRange, memSize]
  omega

theorem wordFits_lt {a : Word} (h : wordFits a = true) : inRange (a.toNat + 1) := by
  simpa [wordFits] using h

@[simp] theorem fatal_ne_next (kind : FatalKind) (s t : State) : fatal kind s ≠ .next t := by simp [fatal]
@[simp] theorem fatal_ne_refused (kind : FatalKind) (s : State) (r : Refusal) : fatal kind s ≠ .refused r := by
  simp [fatal]

@[simp] theorem andThen_next (s : State) (k : State → Out) : andThen (.next s) k = k s := rfl
@[simp] theorem andThen_fatal (kind : FatalKind) (s : State) (k : State → Out) :
    andThen (fatal kind s) k = fatal kind s := rfl

/-- A sequence answers a next state exactly when both parts do. -/
theorem andThen_eq_next {o : Out} {k : State → Out} : andThen o k = .next t ↔ ∃ u, o = .next u ∧ k u = .next t := by
  cases o <;> simp [andThen]

/-- A sequence is refused exactly when a part is. -/
theorem andThen_eq_refused {o : Out} {k : State → Out} {r : Refusal} :
    andThen o k = .refused r ↔ o = .refused r ∨ ∃ u, o = .next u ∧ k u = .refused r := by
  cases o <;> simp [andThen]

/-- A sequence faults exactly when a part does. -/
theorem andThen_eq_fault {o : Out} {k : State → Out} {f : Fault} :
    andThen o k = .fault f ↔ o = .fault f ∨ ∃ u, o = .next u ∧ k u = .fault f := by
  cases o <;> simp [andThen]

theorem withWord_of_fits {a : Word} (h : a ≠ 0xFFFF) (s : State) (k : Word → Out) : withWord a s k = k (s.word a) := by
  simp [withWord, wordFits_iff.2 h]

theorem withWord_top (s : State) (k : Word → Out) : withWord 0xFFFF s k = fatal (.outOfRange 0xFFFF) s := rfl

/-- A word read that answers a next state fits, and goes on with the word. -/
theorem withWord_eq_next {a : Word} : withWord a s k = .next t ↔ a ≠ 0xFFFF ∧ k (s.word a) = .next t := by
  by_cases h : a = 0xFFFF
  · exact ⟨fun e => absurd (h ▸ e) (fatal_ne_next _ _ _), fun e => absurd h e.1⟩
  · rw [withWord_of_fits h]
    exact ⟨fun e => ⟨h, e⟩, fun e => e.2⟩

theorem storeWord_of_fits {a : Word} (h : a ≠ 0xFFFF) (v : Word) (s : State) :
    storeWord a v s = .next (s.putWord a v) := by simp [storeWord, wordFits_iff.2 h]

theorem storeWord_top (v : Word) (s : State) : storeWord 0xFFFF v s = fatal (.outOfRange 0xFFFF) s := rfl

/-- A word store that answers a next state fits, and stores the word. -/
theorem storeWord_eq_next {a v : Word} : storeWord a v s = .next t ↔ a ≠ 0xFFFF ∧ s.putWord a v = t := by
  by_cases h : a = 0xFFFF
  · exact ⟨fun e => absurd (h ▸ e) (fatal_ne_next _ _ _), fun e => absurd h e.1⟩
  · rw [storeWord_of_fits h]
    exact ⟨fun e => ⟨h, Host.Outcome.next.inj e⟩, fun e => congrArg _ e.2⟩

/-- The value a source has where all its accesses fit (R76). -/
def sourceAt (kind : OperandKind) (w : Word) (s : State) : Word :=
  match kind with
  | .i => w
  | .r => s.word w
  | .a => s.word (s.word w)

/-- The address a target has where its access fits (R76). -/
def addressAt (kind : TargetKind) (w : Word) (s : State) : Word :=
  match kind with
  | .r => w
  | .a => s.word w

/-- The value of PUSH, or the target of a jump, where its access fits (R112). -/
def valueAt (kind : ValueKind) (w : Word) (s : State) : Word :=
  match kind with
  | .i => w
  | .r => s.word w

/-- A source that answers a next state goes on with its value. -/
theorem sourceValue_eq_next {kind : OperandKind} {w : Word} (h : sourceValue kind w s k = .next t) :
    k (sourceAt kind w s) = .next t := by
  cases kind
  · exact h
  · exact (withWord_eq_next.1 h).2
  · have outer := withWord_eq_next.1 (show withWord w s (fun p => withWord p s k) = .next t from h)
    exact (withWord_eq_next.1 outer.2).2

/-- A target that answers a next state goes on with its address. -/
theorem targetAddress_eq_next {kind : TargetKind} {w : Word} (h : targetAddress kind w s k = .next t) :
    k (addressAt kind w s) = .next t := by
  cases kind
  · exact h
  · exact (withWord_eq_next.1 h).2

/-- A value that answers a next state goes on with it. -/
theorem operandValue_eq_next {kind : ValueKind} {w : Word} (h : operandValue kind w s k = .next t) :
    k (valueAt kind w s) = .next t := by
  cases kind
  · exact h
  · exact (withWord_eq_next.1 h).2

/-- The binary contract when it answers a next state: the first access fits, and the second value is a word read in mode
RR and the operand word in every other. -/
theorem binaryOperands_eq_next {mode : Mode} {a b : Word} {k : Word → Word → Out}
    (h : binaryOperands mode a b s k = .next t) :
    a ≠ 0xFFFF ∧ (mode = .rr → b ≠ 0xFFFF) ∧ k (s.word a) (if mode = .rr then s.word b else b) = .next t := by
  obtain ⟨ha, h⟩ := withWord_eq_next.1 h
  by_cases hm : mode = .rr
  · simp only [hm, if_true] at h ⊢
    obtain ⟨hb, h⟩ := withWord_eq_next.1 h
    exact ⟨ha, fun _ => hb, h⟩
  · simp only [hm, if_false] at h ⊢
    exact ⟨ha, fun e => absurd e (by simp), h⟩

/-- The result store when it answers a next state: exactly its three word stores. -/
theorem storeResult_eq_next {a r zf cf : Word} :
    storeResult a r zf cf s = .next t ↔
      a ≠ 0xFFFF ∧ ((s.putWord a r).putWord zfCell zf).putWord cfCell cf = t := by
  simp only [storeResult, andThen_eq_next, storeWord_eq_next]
  constructor
  · rintro ⟨u, ⟨ha, rfl⟩, h⟩
    exact ⟨ha, by simpa using h⟩
  · rintro ⟨ha, rfl⟩
    exact ⟨_, ⟨ha, rfl⟩, rfl⟩

/-- The unary contract when it answers a next state: the access fits, and it goes on with the word. -/
theorem unaryOperand_eq_next {a : Word} {k : Word → Out} :
    unaryOperand a s k = .next t ↔ a ≠ 0xFFFF ∧ k (s.word a) = .next t := withWord_eq_next

/-- A result store that answers a next state: the three words of R109. -/
theorem writeResult_eq_next {a : Word} {x : Int} {carryKind : Bool} :
    writeResult a x carryKind s = .next t ↔
      a ≠ 0xFFFF ∧
        ((s.putWord a (trunc16 x)).putWord zfCell (zeroFlag (trunc16 x))).putWord cfCell (carryFlag x carryKind) = t :=
  storeResult_eq_next

/-- A comparison's store that answers a next state: the truth value twice, and CARRY_FLAG 0 (R150). -/
theorem writeTruth_eq_next {a : Word} {b : Bool} :
    writeTruth a b s = .next t ↔
      a ≠ 0xFFFF ∧ ((s.putWord a (flagWord b)).putWord zfCell (flagWord b)).putWord cfCell 0x0000 = t :=
  storeResult_eq_next

/-- A word reads back as it was stored, where it fits. -/
theorem State.word_putWord_self (s : State) {a : Word} (h : a ≠ 0xFFFF) (v : Word) : (s.putWord a v).word a = v :=
  Memory.wordAt_setWord_self _ _ (wordFits_lt (wordFits_iff.2 h))

/-- A word store leaves a word that shares no byte with it alone. -/
theorem State.word_putWord_disjoint (s : State) {a b : Word} (v : Word)
    (h : b.toNat + 1 < a.toNat ∨ a.toNat + 1 < b.toNat) : (s.putWord a v).word b = s.word b :=
  Memory.wordAt_setWord_disjoint _ _ h

/-- A word store leaves every byte outside its two alone. -/
theorem State.byte_putWord_ne (s : State) {a : Word} {x : Nat} (v : Word) (h : x ≠ a.toNat) (h' : x ≠ a.toNat + 1) :
    (s.putWord a v).byte x = s.byte x := Memory.byteAt_setWord_ne _ _ h h'

/-- A push that answers a next state left room and did its two stores. -/
theorem stackPush_eq_next {v : Word} :
    stackPush v s = .next t ↔
      s.sp.toNat + 2 ≤ stackLimit ∧
        (s.setSp (BitVec.ofNat 16 (s.sp.toNat + 2))).putWord (BitVec.ofNat 16 (s.sp.toNat + 2)) v = t := by
  by_cases h : s.sp.toNat + 2 > stackLimit
  · simp [stackPush, h, Nat.not_le.2 h]
  · simp [stackPush, h, Nat.not_lt.1 h]

/-- What a pop leaves: the cell at SP cleared, SP lowered by 2 above STACK_BASE. -/
def State.popped (s : State) : State :=
  if s.sp > stackBase then (s.putWord s.sp 0x0000).setSp (s.sp - 2) else s.putWord s.sp 0x0000

/-- A pop that answers a next state read the word at SP and goes on with it. -/
theorem stackPop_eq_next {k : Word → State → Out} :
    stackPop s k = .next t ↔ s.sp ≠ 0xFFFF ∧ k (s.word s.sp) s.popped = .next t := by
  simp only [stackPop, withWord_eq_next, State.popped]

/-- A return that answers a next state: the popped word is in CP. -/
theorem returnToCaller_eq_next : returnToCaller s = .next t ↔ s.sp ≠ 0xFFFF ∧ s.popped.setCp (s.word s.sp) = t := by
  rw [returnToCaller, stackPop_eq_next]
  exact and_congr_right fun _ => ⟨Host.Outcome.next.inj, congrArg _⟩

/-- A delivery that answers a next state: the push succeeded, and INTERRUPT and CP took their words. -/
theorem takeInterrupt_eq_next {r : Record} {rest : List Record} :
    takeInterrupt r rest s = .next t ↔
      ∃ u, stackPush s.cp (s.withQueue rest) = .next u ∧
        (u.putWord interruptCell r.code).setCp ((u.putWord interruptCell r.code).word r.reason.cell) = t := by
  simp [takeInterrupt, andThen_eq_next]

/-- The delivery step when it answers a next state: the queue is open, and nothing was queued or the head was taken. -/
theorem updateInterrupts_eq_next :
    updateInterrupts s = .next t ↔
      s.irqClosed = false ∧
        (s.irq = [] ∧ s = t ∨ ∃ r rest, s.irq = r :: rest ∧ takeInterrupt r rest s = .next t) := by
  cases hc : s.irqClosed <;> cases hq : s.irq <;> simp [updateInterrupts, hc, hq]

/-- The end of a cycle when it answers a next state: the delivery step, then the status. -/
theorem endCycle_eq_next :
    endCycle s = .next t ↔ ∃ u, updateInterrupts s.arriveLate = .next u ∧ u.settleStatus = t := by
  simp [endCycle, andThen_eq_next, draw]

/-- A step that answers a next state is a cycle of a running machine. -/
theorem step_eq_next : step s = .next t ↔ s.status = .running ∧ cycle s = .next t := by
  unfold step
  split <;> simp_all

theorem run_succ (M : Host.Core) (k : Nat) (u v : M.State) :
    Host.Core.run M (k + 1) u = .next v ↔ ∃ w, M.step u = .next w ∧ Host.Core.run M k w = .next v := by
  rw [Host.Core.run]
  cases M.step u <;> simp

/-- One step more of a run that ends in a next state. -/
theorem run_succ_eq_next {k : Nat} :
    Host.Core.run Sys2Proof.core (k + 1) s = .next t ↔
      ∃ u, step s = .next u ∧ Host.Core.run Sys2Proof.core k u = .next t := run_succ Sys2Proof.core k s t

end Sys2Proof.Machine
end

