-- ==== Sys2Proof/Laws/PerInstr.lean ====
section
/-! SUPPORT. The per-instruction family `Admitted`: every constructor's written form passes the checks of
WellFormed.lean, so the encoder's table and the admitted pairs of 30_encoding.md R78 agree row by row. -/

namespace Sys2Proof.Laws

/-- The written form of the instruction is one of the 145 admitted pairs with the operand words its mode calls for
(R77, R78). -/
def Admitted.Statement (i : Instr) : Prop := i.wellFormed = true

theorem Admitted.addRR (a b : Word) : Admitted.Statement (.addRR a b) := rfl
theorem Admitted.addRI (a b : Word) : Admitted.Statement (.addRI a b) := rfl
theorem Admitted.addRA (a b : Word) : Admitted.Statement (.addRA a b) := rfl
theorem Admitted.addAA (a b : Word) : Admitted.Statement (.addAA a b) := rfl
theorem Admitted.addAR (a b : Word) : Admitted.Statement (.addAR a b) := rfl
theorem Admitted.addIA (a b : Word) : Admitted.Statement (.addIA a b) := rfl
theorem Admitted.addIR (a b : Word) : Admitted.Statement (.addIR a b) := rfl
theorem Admitted.addII (a b : Word) : Admitted.Statement (.addII a b) := rfl
theorem Admitted.addAI (a b : Word) : Admitted.Statement (.addAI a b) := rfl
theorem Admitted.subRR (a b : Word) : Admitted.Statement (.subRR a b) := rfl
theorem Admitted.subRI (a b : Word) : Admitted.Statement (.subRI a b) := rfl
theorem Admitted.subRA (a b : Word) : Admitted.Statement (.subRA a b) := rfl
theorem Admitted.subAA (a b : Word) : Admitted.Statement (.subAA a b) := rfl
theorem Admitted.subAR (a b : Word) : Admitted.Statement (.subAR a b) := rfl
theorem Admitted.subIA (a b : Word) : Admitted.Statement (.subIA a b) := rfl
theorem Admitted.subIR (a b : Word) : Admitted.Statement (.subIR a b) := rfl
theorem Admitted.subII (a b : Word) : Admitted.Statement (.subII a b) := rfl
theorem Admitted.subAI (a b : Word) : Admitted.Statement (.subAI a b) := rfl
theorem Admitted.mulRR (a b : Word) : Admitted.Statement (.mulRR a b) := rfl
theorem Admitted.mulRI (a b : Word) : Admitted.Statement (.mulRI a b) := rfl
theorem Admitted.mulRA (a b : Word) : Admitted.Statement (.mulRA a b) := rfl
theorem Admitted.mulAA (a b : Word) : Admitted.Statement (.mulAA a b) := rfl
theorem Admitted.mulAR (a b : Word) : Admitted.Statement (.mulAR a b) := rfl
theorem Admitted.mulIA (a b : Word) : Admitted.Statement (.mulIA a b) := rfl
theorem Admitted.mulIR (a b : Word) : Admitted.Statement (.mulIR a b) := rfl
theorem Admitted.mulII (a b : Word) : Admitted.Statement (.mulII a b) := rfl
theorem Admitted.mulAI (a b : Word) : Admitted.Statement (.mulAI a b) := rfl
theorem Admitted.divRR (a b : Word) : Admitted.Statement (.divRR a b) := rfl
theorem Admitted.divRI (a b : Word) : Admitted.Statement (.divRI a b) := rfl
theorem Admitted.divRA (a b : Word) : Admitted.Statement (.divRA a b) := rfl
theorem Admitted.divAA (a b : Word) : Admitted.Statement (.divAA a b) := rfl
theorem Admitted.divAR (a b : Word) : Admitted.Statement (.divAR a b) := rfl
theorem Admitted.divIA (a b : Word) : Admitted.Statement (.divIA a b) := rfl
theorem Admitted.divIR (a b : Word) : Admitted.Statement (.divIR a b) := rfl
theorem Admitted.divII (a b : Word) : Admitted.Statement (.divII a b) := rfl
theorem Admitted.divAI (a b : Word) : Admitted.Statement (.divAI a b) := rfl
theorem Admitted.incI (a : Word) : Admitted.Statement (.incI a) := rfl
theorem Admitted.incR (a : Word) : Admitted.Statement (.incR a) := rfl
theorem Admitted.incA (a : Word) : Admitted.Statement (.incA a) := rfl
theorem Admitted.decI (a : Word) : Admitted.Statement (.decI a) := rfl
theorem Admitted.decR (a : Word) : Admitted.Statement (.decR a) := rfl
theorem Admitted.decA (a : Word) : Admitted.Statement (.decA a) := rfl
theorem Admitted.andRR (a b : Word) : Admitted.Statement (.andRR a b) := rfl
theorem Admitted.andRI (a b : Word) : Admitted.Statement (.andRI a b) := rfl
theorem Admitted.andRA (a b : Word) : Admitted.Statement (.andRA a b) := rfl
theorem Admitted.andAA (a b : Word) : Admitted.Statement (.andAA a b) := rfl
theorem Admitted.andAR (a b : Word) : Admitted.Statement (.andAR a b) := rfl
theorem Admitted.andIA (a b : Word) : Admitted.Statement (.andIA a b) := rfl
theorem Admitted.andIR (a b : Word) : Admitted.Statement (.andIR a b) := rfl
theorem Admitted.andII (a b : Word) : Admitted.Statement (.andII a b) := rfl
theorem Admitted.andAI (a b : Word) : Admitted.Statement (.andAI a b) := rfl
theorem Admitted.orRR (a b : Word) : Admitted.Statement (.orRR a b) := rfl
theorem Admitted.orRI (a b : Word) : Admitted.Statement (.orRI a b) := rfl
theorem Admitted.orRA (a b : Word) : Admitted.Statement (.orRA a b) := rfl
theorem Admitted.orAA (a b : Word) : Admitted.Statement (.orAA a b) := rfl
theorem Admitted.orAR (a b : Word) : Admitted.Statement (.orAR a b) := rfl
theorem Admitted.orIA (a b : Word) : Admitted.Statement (.orIA a b) := rfl
theorem Admitted.orIR (a b : Word) : Admitted.Statement (.orIR a b) := rfl
theorem Admitted.orII (a b : Word) : Admitted.Statement (.orII a b) := rfl
theorem Admitted.orAI (a b : Word) : Admitted.Statement (.orAI a b) := rfl
theorem Admitted.xorRR (a b : Word) : Admitted.Statement (.xorRR a b) := rfl
theorem Admitted.xorRI (a b : Word) : Admitted.Statement (.xorRI a b) := rfl
theorem Admitted.xorRA (a b : Word) : Admitted.Statement (.xorRA a b) := rfl
theorem Admitted.xorAA (a b : Word) : Admitted.Statement (.xorAA a b) := rfl
theorem Admitted.xorAR (a b : Word) : Admitted.Statement (.xorAR a b) := rfl
theorem Admitted.xorIA (a b : Word) : Admitted.Statement (.xorIA a b) := rfl
theorem Admitted.xorIR (a b : Word) : Admitted.Statement (.xorIR a b) := rfl
theorem Admitted.xorII (a b : Word) : Admitted.Statement (.xorII a b) := rfl
theorem Admitted.xorAI (a b : Word) : Admitted.Statement (.xorAI a b) := rfl
theorem Admitted.notI (a : Word) : Admitted.Statement (.notI a) := rfl
theorem Admitted.notR (a : Word) : Admitted.Statement (.notR a) := rfl
theorem Admitted.notA (a : Word) : Admitted.Statement (.notA a) := rfl
theorem Admitted.shlRR (a b : Word) : Admitted.Statement (.shlRR a b) := rfl
theorem Admitted.shlRI (a b : Word) : Admitted.Statement (.shlRI a b) := rfl
theorem Admitted.shlRA (a b : Word) : Admitted.Statement (.shlRA a b) := rfl
theorem Admitted.shlAA (a b : Word) : Admitted.Statement (.shlAA a b) := rfl
theorem Admitted.shlAR (a b : Word) : Admitted.Statement (.shlAR a b) := rfl
theorem Admitted.shlIA (a b : Word) : Admitted.Statement (.shlIA a b) := rfl
theorem Admitted.shlIR (a b : Word) : Admitted.Statement (.shlIR a b) := rfl
theorem Admitted.shlII (a b : Word) : Admitted.Statement (.shlII a b) := rfl
theorem Admitted.shlAI (a b : Word) : Admitted.Statement (.shlAI a b) := rfl
theorem Admitted.shrRR (a b : Word) : Admitted.Statement (.shrRR a b) := rfl
theorem Admitted.shrRI (a b : Word) : Admitted.Statement (.shrRI a b) := rfl
theorem Admitted.shrRA (a b : Word) : Admitted.Statement (.shrRA a b) := rfl
theorem Admitted.shrAA (a b : Word) : Admitted.Statement (.shrAA a b) := rfl
theorem Admitted.shrAR (a b : Word) : Admitted.Statement (.shrAR a b) := rfl
theorem Admitted.shrIA (a b : Word) : Admitted.Statement (.shrIA a b) := rfl
theorem Admitted.shrIR (a b : Word) : Admitted.Statement (.shrIR a b) := rfl
theorem Admitted.shrII (a b : Word) : Admitted.Statement (.shrII a b) := rfl
theorem Admitted.shrAI (a b : Word) : Admitted.Statement (.shrAI a b) := rfl
theorem Admitted.movRR (a b : Word) : Admitted.Statement (.movRR a b) := rfl
theorem Admitted.movRA (a b : Word) : Admitted.Statement (.movRA a b) := rfl
theorem Admitted.movAA (a b : Word) : Admitted.Statement (.movAA a b) := rfl
theorem Admitted.movAR (a b : Word) : Admitted.Statement (.movAR a b) := rfl
theorem Admitted.movIA (a b : Word) : Admitted.Statement (.movIA a b) := rfl
theorem Admitted.movIR (a b : Word) : Admitted.Statement (.movIR a b) := rfl
theorem Admitted.pushI (a : Word) : Admitted.Statement (.pushI a) := rfl
theorem Admitted.pushR (a : Word) : Admitted.Statement (.pushR a) := rfl
theorem Admitted.popI (a : Word) : Admitted.Statement (.popI a) := rfl
theorem Admitted.popR (a : Word) : Admitted.Statement (.popR a) := rfl
theorem Admitted.popA (a : Word) : Admitted.Statement (.popA a) := rfl
theorem Admitted.cmpRR (a b : Word) : Admitted.Statement (.cmpRR a b) := rfl
theorem Admitted.cmpRI (a b : Word) : Admitted.Statement (.cmpRI a b) := rfl
theorem Admitted.cmpRA (a b : Word) : Admitted.Statement (.cmpRA a b) := rfl
theorem Admitted.cmpAA (a b : Word) : Admitted.Statement (.cmpAA a b) := rfl
theorem Admitted.cmpAR (a b : Word) : Admitted.Statement (.cmpAR a b) := rfl
theorem Admitted.cmpIA (a b : Word) : Admitted.Statement (.cmpIA a b) := rfl
theorem Admitted.cmpIR (a b : Word) : Admitted.Statement (.cmpIR a b) := rfl
theorem Admitted.cmpII (a b : Word) : Admitted.Statement (.cmpII a b) := rfl
theorem Admitted.cmpAI (a b : Word) : Admitted.Statement (.cmpAI a b) := rfl
theorem Admitted.cntRR (a b : Word) : Admitted.Statement (.cntRR a b) := rfl
theorem Admitted.cntRI (a b : Word) : Admitted.Statement (.cntRI a b) := rfl
theorem Admitted.cntRA (a b : Word) : Admitted.Statement (.cntRA a b) := rfl
theorem Admitted.cntAA (a b : Word) : Admitted.Statement (.cntAA a b) := rfl
theorem Admitted.cntAR (a b : Word) : Admitted.Statement (.cntAR a b) := rfl
theorem Admitted.cntIA (a b : Word) : Admitted.Statement (.cntIA a b) := rfl
theorem Admitted.cntIR (a b : Word) : Admitted.Statement (.cntIR a b) := rfl
theorem Admitted.cntII (a b : Word) : Admitted.Statement (.cntII a b) := rfl
theorem Admitted.cntAI (a b : Word) : Admitted.Statement (.cntAI a b) := rfl
theorem Admitted.jifI (a : Word) : Admitted.Statement (.jifI a) := rfl
theorem Admitted.jifR (a : Word) : Admitted.Statement (.jifR a) := rfl
theorem Admitted.jmpI (a : Word) : Admitted.Statement (.jmpI a) := rfl
theorem Admitted.jmpR (a : Word) : Admitted.Statement (.jmpR a) := rfl
theorem Admitted.callI (a : Word) : Admitted.Statement (.callI a) := rfl
theorem Admitted.callR (a : Word) : Admitted.Statement (.callR a) := rfl
theorem Admitted.ret : Admitted.Statement .ret := rfl
theorem Admitted.hlt : Admitted.Statement .hlt := rfl
theorem Admitted.lgeRR (a b : Word) : Admitted.Statement (.lgeRR a b) := rfl
theorem Admitted.lgeRI (a b : Word) : Admitted.Statement (.lgeRI a b) := rfl
theorem Admitted.lgeRA (a b : Word) : Admitted.Statement (.lgeRA a b) := rfl
theorem Admitted.lgeAA (a b : Word) : Admitted.Statement (.lgeAA a b) := rfl
theorem Admitted.lgeAR (a b : Word) : Admitted.Statement (.lgeAR a b) := rfl
theorem Admitted.lgeIA (a b : Word) : Admitted.Statement (.lgeIA a b) := rfl
theorem Admitted.lgeIR (a b : Word) : Admitted.Statement (.lgeIR a b) := rfl
theorem Admitted.lgeII (a b : Word) : Admitted.Statement (.lgeII a b) := rfl
theorem Admitted.lgeAI (a b : Word) : Admitted.Statement (.lgeAI a b) := rfl
theorem Admitted.smeRR (a b : Word) : Admitted.Statement (.smeRR a b) := rfl
theorem Admitted.smeRI (a b : Word) : Admitted.Statement (.smeRI a b) := rfl
theorem Admitted.smeRA (a b : Word) : Admitted.Statement (.smeRA a b) := rfl
theorem Admitted.smeAA (a b : Word) : Admitted.Statement (.smeAA a b) := rfl
theorem Admitted.smeAR (a b : Word) : Admitted.Statement (.smeAR a b) := rfl
theorem Admitted.smeIA (a b : Word) : Admitted.Statement (.smeIA a b) := rfl
theorem Admitted.smeIR (a b : Word) : Admitted.Statement (.smeIR a b) := rfl
theorem Admitted.smeII (a b : Word) : Admitted.Statement (.smeII a b) := rfl
theorem Admitted.smeAI (a b : Word) : Admitted.Statement (.smeAI a b) := rfl

end Sys2Proof.Laws
end

