-- ==== Sys2Proof/Tests/Slice0.lean ====
section
/-! SUPPORT. The model's own tests. Expected results come from the worked vectors of 95_test_vectors.md (their numbers stand
in the names) or, for the modes those leave out, from the rules by hand. Then one witness for each obligation that has hypotheses. -/

namespace Sys2Proof.Tests

open Machine Claims

/-! ### The checks of WellFormed.lean -/

theorem test_wellFormed_accepts : RawInstr.wellFormed { mode := 0x02, opcode := 0x01, operands := [0x0008, 0x0001] } = true := by
  decide
theorem test_modeAssigned_refuses : RawInstr.modeAssigned { mode := 0x0D, opcode := 0x01, operands := [] } = false := by decide
theorem test_opcodeAssigned_refuses_zero : RawInstr.opcodeAssigned { mode := 0x00, opcode := 0x00, operands := [] } = false := by
  decide
theorem test_opcodeAssigned_refuses_above : RawInstr.opcodeAssigned { mode := 0x00, opcode := 0x19, operands := [] } = false := by
  decide
theorem test_pairAdmitted_refuses_mov_ri :
    RawInstr.pairAdmitted { mode := 0x02, opcode := 0x0D, operands := [0x0008, 0x0001] } = false := by decide
theorem test_pairAdmitted_refuses_hlt_i : RawInstr.pairAdmitted { mode := 0x08, opcode := 0x16, operands := [0] } = false := by
  decide
theorem test_operandsMatch_refuses_short : RawInstr.operandsMatch { mode := 0x01, opcode := 0x01, operands := [0x0008] } = false := by
  decide
theorem test_operandsMatch_refuses_long : RawInstr.operandsMatch { mode := 0x00, opcode := 0x15, operands := [0x0008] } = false := by
  decide

/-! ### Decoding: every row of the table, each word `(mode << 8) | opcode` (R70) below its operand words 0x1234 and 0xABCD -/

theorem test_decode_add :
    decodeTableWord 48 0xABCD12340101 = some (.addRR 0x1234 0xABCD) ∧
    decodeTableWord 48 0xABCD12340201 = some (.addRI 0x1234 0xABCD) ∧
    decodeTableWord 48 0xABCD12340301 = some (.addRA 0x1234 0xABCD) ∧
    decodeTableWord 48 0xABCD12340401 = some (.addAA 0x1234 0xABCD) ∧
    decodeTableWord 48 0xABCD12340501 = some (.addAR 0x1234 0xABCD) ∧
    decodeTableWord 48 0xABCD12340601 = some (.addIA 0x1234 0xABCD) ∧
    decodeTableWord 48 0xABCD12340701 = some (.addIR 0x1234 0xABCD) ∧
    decodeTableWord 48 0xABCD12340B01 = some (.addII 0x1234 0xABCD) ∧
    decodeTableWord 48 0xABCD12340C01 = some (.addAI 0x1234 0xABCD) := by decide
theorem test_decode_sub :
    decodeTableWord 48 0xABCD12340102 = some (.subRR 0x1234 0xABCD) ∧
    decodeTableWord 48 0xABCD12340202 = some (.subRI 0x1234 0xABCD) ∧
    decodeTableWord 48 0xABCD12340302 = some (.subRA 0x1234 0xABCD) ∧
    decodeTableWord 48 0xABCD12340402 = some (.subAA 0x1234 0xABCD) ∧
    decodeTableWord 48 0xABCD12340502 = some (.subAR 0x1234 0xABCD) ∧
    decodeTableWord 48 0xABCD12340602 = some (.subIA 0x1234 0xABCD) ∧
    decodeTableWord 48 0xABCD12340702 = some (.subIR 0x1234 0xABCD) ∧
    decodeTableWord 48 0xABCD12340B02 = some (.subII 0x1234 0xABCD) ∧
    decodeTableWord 48 0xABCD12340C02 = some (.subAI 0x1234 0xABCD) := by decide
theorem test_decode_mul :
    decodeTableWord 48 0xABCD12340103 = some (.mulRR 0x1234 0xABCD) ∧
    decodeTableWord 48 0xABCD12340203 = some (.mulRI 0x1234 0xABCD) ∧
    decodeTableWord 48 0xABCD12340303 = some (.mulRA 0x1234 0xABCD) ∧
    decodeTableWord 48 0xABCD12340403 = some (.mulAA 0x1234 0xABCD) ∧
    decodeTableWord 48 0xABCD12340503 = some (.mulAR 0x1234 0xABCD) ∧
    decodeTableWord 48 0xABCD12340603 = some (.mulIA 0x1234 0xABCD) ∧
    decodeTableWord 48 0xABCD12340703 = some (.mulIR 0x1234 0xABCD) ∧
    decodeTableWord 48 0xABCD12340B03 = some (.mulII 0x1234 0xABCD) ∧
    decodeTableWord 48 0xABCD12340C03 = some (.mulAI 0x1234 0xABCD) := by decide
theorem test_decode_div :
    decodeTableWord 48 0xABCD12340104 = some (.divRR 0x1234 0xABCD) ∧
    decodeTableWord 48 0xABCD12340204 = some (.divRI 0x1234 0xABCD) ∧
    decodeTableWord 48 0xABCD12340304 = some (.divRA 0x1234 0xABCD) ∧
    decodeTableWord 48 0xABCD12340404 = some (.divAA 0x1234 0xABCD) ∧
    decodeTableWord 48 0xABCD12340504 = some (.divAR 0x1234 0xABCD) ∧
    decodeTableWord 48 0xABCD12340604 = some (.divIA 0x1234 0xABCD) ∧
    decodeTableWord 48 0xABCD12340704 = some (.divIR 0x1234 0xABCD) ∧
    decodeTableWord 48 0xABCD12340B04 = some (.divII 0x1234 0xABCD) ∧
    decodeTableWord 48 0xABCD12340C04 = some (.divAI 0x1234 0xABCD) := by decide
theorem test_decode_inc :
    decodeTableWord 32 0x12340805 = some (.incI 0x1234) ∧
    decodeTableWord 32 0x12340905 = some (.incR 0x1234) ∧
    decodeTableWord 32 0x12340A05 = some (.incA 0x1234) := by decide
theorem test_decode_dec :
    decodeTableWord 32 0x12340806 = some (.decI 0x1234) ∧
    decodeTableWord 32 0x12340906 = some (.decR 0x1234) ∧
    decodeTableWord 32 0x12340A06 = some (.decA 0x1234) := by decide
theorem test_decode_and :
    decodeTableWord 48 0xABCD12340107 = some (.andRR 0x1234 0xABCD) ∧
    decodeTableWord 48 0xABCD12340207 = some (.andRI 0x1234 0xABCD) ∧
    decodeTableWord 48 0xABCD12340307 = some (.andRA 0x1234 0xABCD) ∧
    decodeTableWord 48 0xABCD12340407 = some (.andAA 0x1234 0xABCD) ∧
    decodeTableWord 48 0xABCD12340507 = some (.andAR 0x1234 0xABCD) ∧
    decodeTableWord 48 0xABCD12340607 = some (.andIA 0x1234 0xABCD) ∧
    decodeTableWord 48 0xABCD12340707 = some (.andIR 0x1234 0xABCD) ∧
    decodeTableWord 48 0xABCD12340B07 = some (.andII 0x1234 0xABCD) ∧
    decodeTableWord 48 0xABCD12340C07 = some (.andAI 0x1234 0xABCD) := by decide
theorem test_decode_or :
    decodeTableWord 48 0xABCD12340108 = some (.orRR 0x1234 0xABCD) ∧
    decodeTableWord 48 0xABCD12340208 = some (.orRI 0x1234 0xABCD) ∧
    decodeTableWord 48 0xABCD12340308 = some (.orRA 0x1234 0xABCD) ∧
    decodeTableWord 48 0xABCD12340408 = some (.orAA 0x1234 0xABCD) ∧
    decodeTableWord 48 0xABCD12340508 = some (.orAR 0x1234 0xABCD) ∧
    decodeTableWord 48 0xABCD12340608 = some (.orIA 0x1234 0xABCD) ∧
    decodeTableWord 48 0xABCD12340708 = some (.orIR 0x1234 0xABCD) ∧
    decodeTableWord 48 0xABCD12340B08 = some (.orII 0x1234 0xABCD) ∧
    decodeTableWord 48 0xABCD12340C08 = some (.orAI 0x1234 0xABCD) := by decide
theorem test_decode_xor :
    decodeTableWord 48 0xABCD12340109 = some (.xorRR 0x1234 0xABCD) ∧
    decodeTableWord 48 0xABCD12340209 = some (.xorRI 0x1234 0xABCD) ∧
    decodeTableWord 48 0xABCD12340309 = some (.xorRA 0x1234 0xABCD) ∧
    decodeTableWord 48 0xABCD12340409 = some (.xorAA 0x1234 0xABCD) ∧
    decodeTableWord 48 0xABCD12340509 = some (.xorAR 0x1234 0xABCD) ∧
    decodeTableWord 48 0xABCD12340609 = some (.xorIA 0x1234 0xABCD) ∧
    decodeTableWord 48 0xABCD12340709 = some (.xorIR 0x1234 0xABCD) ∧
    decodeTableWord 48 0xABCD12340B09 = some (.xorII 0x1234 0xABCD) ∧
    decodeTableWord 48 0xABCD12340C09 = some (.xorAI 0x1234 0xABCD) := by decide
theorem test_decode_not :
    decodeTableWord 32 0x1234080A = some (.notI 0x1234) ∧
    decodeTableWord 32 0x1234090A = some (.notR 0x1234) ∧
    decodeTableWord 32 0x12340A0A = some (.notA 0x1234) := by decide
theorem test_decode_shl :
    decodeTableWord 48 0xABCD1234010B = some (.shlRR 0x1234 0xABCD) ∧
    decodeTableWord 48 0xABCD1234020B = some (.shlRI 0x1234 0xABCD) ∧
    decodeTableWord 48 0xABCD1234030B = some (.shlRA 0x1234 0xABCD) ∧
    decodeTableWord 48 0xABCD1234040B = some (.shlAA 0x1234 0xABCD) ∧
    decodeTableWord 48 0xABCD1234050B = some (.shlAR 0x1234 0xABCD) ∧
    decodeTableWord 48 0xABCD1234060B = some (.shlIA 0x1234 0xABCD) ∧
    decodeTableWord 48 0xABCD1234070B = some (.shlIR 0x1234 0xABCD) ∧
    decodeTableWord 48 0xABCD12340B0B = some (.shlII 0x1234 0xABCD) ∧
    decodeTableWord 48 0xABCD12340C0B = some (.shlAI 0x1234 0xABCD) := by decide
theorem test_decode_shr :
    decodeTableWord 48 0xABCD1234010C = some (.shrRR 0x1234 0xABCD) ∧
    decodeTableWord 48 0xABCD1234020C = some (.shrRI 0x1234 0xABCD) ∧
    decodeTableWord 48 0xABCD1234030C = some (.shrRA 0x1234 0xABCD) ∧
    decodeTableWord 48 0xABCD1234040C = some (.shrAA 0x1234 0xABCD) ∧
    decodeTableWord 48 0xABCD1234050C = some (.shrAR 0x1234 0xABCD) ∧
    decodeTableWord 48 0xABCD1234060C = some (.shrIA 0x1234 0xABCD) ∧
    decodeTableWord 48 0xABCD1234070C = some (.shrIR 0x1234 0xABCD) ∧
    decodeTableWord 48 0xABCD12340B0C = some (.shrII 0x1234 0xABCD) ∧
    decodeTableWord 48 0xABCD12340C0C = some (.shrAI 0x1234 0xABCD) := by decide
theorem test_decode_mov :
    decodeTableWord 48 0xABCD1234010D = some (.movRR 0x1234 0xABCD) ∧
    decodeTableWord 48 0xABCD1234030D = some (.movRA 0x1234 0xABCD) ∧
    decodeTableWord 48 0xABCD1234040D = some (.movAA 0x1234 0xABCD) ∧
    decodeTableWord 48 0xABCD1234050D = some (.movAR 0x1234 0xABCD) ∧
    decodeTableWord 48 0xABCD1234060D = some (.movIA 0x1234 0xABCD) ∧
    decodeTableWord 48 0xABCD1234070D = some (.movIR 0x1234 0xABCD) := by decide
theorem test_decode_push :
    decodeTableWord 32 0x1234080E = some (.pushI 0x1234) ∧
    decodeTableWord 32 0x1234090E = some (.pushR 0x1234) := by decide
theorem test_decode_pop :
    decodeTableWord 32 0x1234080F = some (.popI 0x1234) ∧
    decodeTableWord 32 0x1234090F = some (.popR 0x1234) ∧
    decodeTableWord 32 0x12340A0F = some (.popA 0x1234) := by decide
theorem test_decode_cmp :
    decodeTableWord 48 0xABCD12340110 = some (.cmpRR 0x1234 0xABCD) ∧
    decodeTableWord 48 0xABCD12340210 = some (.cmpRI 0x1234 0xABCD) ∧
    decodeTableWord 48 0xABCD12340310 = some (.cmpRA 0x1234 0xABCD) ∧
    decodeTableWord 48 0xABCD12340410 = some (.cmpAA 0x1234 0xABCD) ∧
    decodeTableWord 48 0xABCD12340510 = some (.cmpAR 0x1234 0xABCD) ∧
    decodeTableWord 48 0xABCD12340610 = some (.cmpIA 0x1234 0xABCD) ∧
    decodeTableWord 48 0xABCD12340710 = some (.cmpIR 0x1234 0xABCD) ∧
    decodeTableWord 48 0xABCD12340B10 = some (.cmpII 0x1234 0xABCD) ∧
    decodeTableWord 48 0xABCD12340C10 = some (.cmpAI 0x1234 0xABCD) := by decide
theorem test_decode_cnt :
    decodeTableWord 48 0xABCD12340111 = some (.cntRR 0x1234 0xABCD) ∧
    decodeTableWord 48 0xABCD12340211 = some (.cntRI 0x1234 0xABCD) ∧
    decodeTableWord 48 0xABCD12340311 = some (.cntRA 0x1234 0xABCD) ∧
    decodeTableWord 48 0xABCD12340411 = some (.cntAA 0x1234 0xABCD) ∧
    decodeTableWord 48 0xABCD12340511 = some (.cntAR 0x1234 0xABCD) ∧
    decodeTableWord 48 0xABCD12340611 = some (.cntIA 0x1234 0xABCD) ∧
    decodeTableWord 48 0xABCD12340711 = some (.cntIR 0x1234 0xABCD) ∧
    decodeTableWord 48 0xABCD12340B11 = some (.cntII 0x1234 0xABCD) ∧
    decodeTableWord 48 0xABCD12340C11 = some (.cntAI 0x1234 0xABCD) := by decide
theorem test_decode_jif :
    decodeTableWord 32 0x12340812 = some (.jifI 0x1234) ∧
    decodeTableWord 32 0x12340912 = some (.jifR 0x1234) := by decide
theorem test_decode_jmp :
    decodeTableWord 32 0x12340813 = some (.jmpI 0x1234) ∧
    decodeTableWord 32 0x12340913 = some (.jmpR 0x1234) := by decide
theorem test_decode_call :
    decodeTableWord 32 0x12340814 = some (.callI 0x1234) ∧
    decodeTableWord 32 0x12340914 = some (.callR 0x1234) := by decide
theorem test_decode_ret :
    decodeTableWord 16 0x0015 = some .ret := by decide
theorem test_decode_hlt :
    decodeTableWord 16 0x0016 = some .hlt := by decide
theorem test_decode_lge :
    decodeTableWord 48 0xABCD12340117 = some (.lgeRR 0x1234 0xABCD) ∧
    decodeTableWord 48 0xABCD12340217 = some (.lgeRI 0x1234 0xABCD) ∧
    decodeTableWord 48 0xABCD12340317 = some (.lgeRA 0x1234 0xABCD) ∧
    decodeTableWord 48 0xABCD12340417 = some (.lgeAA 0x1234 0xABCD) ∧
    decodeTableWord 48 0xABCD12340517 = some (.lgeAR 0x1234 0xABCD) ∧
    decodeTableWord 48 0xABCD12340617 = some (.lgeIA 0x1234 0xABCD) ∧
    decodeTableWord 48 0xABCD12340717 = some (.lgeIR 0x1234 0xABCD) ∧
    decodeTableWord 48 0xABCD12340B17 = some (.lgeII 0x1234 0xABCD) ∧
    decodeTableWord 48 0xABCD12340C17 = some (.lgeAI 0x1234 0xABCD) := by decide
theorem test_decode_sme :
    decodeTableWord 48 0xABCD12340118 = some (.smeRR 0x1234 0xABCD) ∧
    decodeTableWord 48 0xABCD12340218 = some (.smeRI 0x1234 0xABCD) ∧
    decodeTableWord 48 0xABCD12340318 = some (.smeRA 0x1234 0xABCD) ∧
    decodeTableWord 48 0xABCD12340418 = some (.smeAA 0x1234 0xABCD) ∧
    decodeTableWord 48 0xABCD12340518 = some (.smeAR 0x1234 0xABCD) ∧
    decodeTableWord 48 0xABCD12340618 = some (.smeIA 0x1234 0xABCD) ∧
    decodeTableWord 48 0xABCD12340718 = some (.smeIR 0x1234 0xABCD) ∧
    decodeTableWord 48 0xABCD12340B18 = some (.smeII 0x1234 0xABCD) ∧
    decodeTableWord 48 0xABCD12340C18 = some (.smeAI 0x1234 0xABCD) := by decide

/-! One word of each family, bit by bit: operand1, operand0, then the mode and the opcode. -/

theorem test_bits_arithmetic : decodeTableWord 48 0b000000000000000100000000000010000000001000000001 = some (.addRI 0x0008 0x0001) := by decide
theorem test_bits_logic : decodeTableWord 32 0b00000000000010000000100100001010 = some (.notR 0x0008) := by decide
theorem test_bits_compare : decodeTableWord 48 0b000000000000101000000000000010000000000100010000 = some (.cmpRR 0x0008 0x000A) := by decide
theorem test_bits_move : decodeTableWord 48 0b000000000000101000000000000011000000010000001101 = some (.movAA 0x000C 0x000A) := by decide
theorem test_bits_control : decodeTableWord 32 0b00100000000001100000100000010100 = some (.callI 0x2006) := by decide

theorem test_encode_add : encode (.addRI 0x0008 0x0001) = [0x0201, 0x0008, 0x0001] := by decide
theorem test_encodeBytes_call : encodeBytes (.callI 0x2006) = [0x08, 0x14, 0x20, 0x06] := by decide
theorem test_decode_mode_0D : decode [0x0D, 0x01] = .error (.unassignedMode 0x0D01) := by rfl
theorem test_decode_opcode_19 : decode [0x00, 0x19] = .error (.unassignedOpcode 0x0019) := by rfl
theorem test_decode_mov_ri : decode [0x02, 0x0D, 0, 8, 0, 1] = .error (.unadmittedPair 0x020D) := by rfl
theorem test_decode_truncated : decode [0x02, 0x01, 0, 8] = .error .truncated := by rfl

/-! ### One step -/

/-- Words stored one after another. -/
def stored (s : State) (stores : List (Word × Word)) : State := stores.foldl (fun u p => u.putWord p.1 p.2) s

/-- The reset state with some code at an address, CP there, and some words stored. -/
def start (address : Word) (code : List Word) (stores : List (Word × Word)) : State :=
  let s := State.reset.setCp address
  stored { s with mem := s.mem.setBytes address.toNat (wordBytes code) } stores

/-- The words at some addresses of a next state. -/
def words (o : Out) (addresses : List Word) : Option (List Word) :=
  match o with
  | .next t => some (addresses.map t.word)
  | _ => none

/-- The status of a next state. -/
def status (o : Out) : Option Status :=
  match o with
  | .next t => some t.status
  | _ => none

/-- The kind of a fatal error and the words at some addresses of the state it leaves. -/
def stopped (o : Out) (addresses : List Word) : Option (FatalKind × List Word) :=
  match o with
  | .fault (.fatalError kind t) => some (kind, addresses.map t.word)
  | _ => none

/-- How many records the state a step leaves holds. -/
def queued (o : Out) : Option Nat :=
  match o with
  | .next t => some t.irq.length
  | .fault (.fatalError _ t) => some t.irq.length
  | _ => none

theorem test_reset_step_halts : status (step State.reset) = some .halted := by decide
theorem test_reset_step_cp : words (step State.reset) [0x0000, 0x0002] = some [0x2002, 0x0100] := by decide
theorem test_withFetchWord_runs :
    words (step (State.reset.withFetchWord 48 0x000100080201)) [0x0008, 0x0000] = some [0x0001, 0x2006] := by decide

theorem test_VA1_add :
    words (step (start 0x2000 [0x0201, 0x0008, 0x0001] [(0x0008, 0xFFFF)])) [0x0008, 0x0004, 0x0006] =
      some [0x0000, 0x0001, 0x0001] := by decide
theorem test_VA4_add_same :
    words (step (start 0x2000 [0x0101, 0x0008, 0x0008] [(0x0008, 0x8000)])) [0x0008, 0x0004, 0x0006] =
      some [0x0000, 0x0001, 0x0001] := by decide
theorem test_VA5_add_ra :
    words (step (start 0x2000 [0x0301, 0x0008, 0x000A] [(0x0008, 0x0001), (0x000A, 0x3000), (0x3000, 0x0100)])) [0x0008, 0x0004, 0x0006] =
      some [0x000B, 0x0000, 0x0000] := by decide
theorem test_VA6_add_ia :
    words (step (start 0x2000 [0x0601, 0x3000, 0x000A] [(0x000A, 0x5555), (0x3000, 0x0100)])) [0x3000] =
      some [0x010A] := by decide
theorem test_S2_add_ir_literal :
    words (step (start 0x2000 [0x0701, 0x0001, 0x0008] [(0x0008, 0xFFFF)])) [0x0002, 0x0008, 0x0004, 0x0006] =
      some [0x0900, 0xFFFF, 0x0000, 0x0000] := by decide
theorem test_VA8_add_cp :
    words (step (start 0x2000 [0x0201, 0x0000, 0x0004] [])) [0x0000] =
      some [0x200A] := by decide
theorem test_VA9_sub :
    words (step (start 0x2000 [0x0102, 0x0008, 0x000A] [(0x0008, 0x0003), (0x000A, 0x0005)])) [0x0008, 0x0004, 0x0006] =
      some [0xFFFE, 0x0000, 0x0001] := by decide
theorem test_VA11_sub :
    words (step (start 0x2000 [0x0202, 0x0008, 0x0001] [(0x0008, 0x0000)])) [0x0008, 0x0004, 0x0006] =
      some [0xFFFF, 0x0000, 0x0001] := by decide
theorem test_VA13_mul :
    words (step (start 0x2000 [0x0103, 0x0008, 0x000A] [(0x0008, 0xFFFF), (0x000A, 0xFFFF)])) [0x0008, 0x0004, 0x0006] =
      some [0x0001, 0x0000, 0x0001] := by decide
theorem test_VA16_mul :
    words (step (start 0x2000 [0x0203, 0x0008, 0x0101] [(0x0008, 0x00FF)])) [0x0008, 0x0004, 0x0006] =
      some [0xFFFF, 0x0000, 0x0000] := by decide
theorem test_VA17_div_zero :
    stopped (step (start 0x2000 [0x0204, 0x0008, 0x0000] [(0x0008, 0x0007), (0x0006, 0x0001)])) [0x0008, 0x0004, 0x0006, 0x0000] =
      some (.divideByZero, [0x0007, 0x0000, 0x0001, 0x2006]) := by decide
theorem test_VA18_div :
    words (step (start 0x2000 [0x0104, 0x0008, 0x000A] [(0x0008, 0x0064), (0x000A, 0x0007), (0x0006, 0x0001)])) [0x0008, 0x0004, 0x0006] =
      some [0x000E, 0x0000, 0x0000] := by decide
theorem test_VA22_inc_zf :
    words (step (start 0x2000 [0x0905, 0x0004] [(0x0006, 0x0001)])) [0x0004, 0x0006] =
      some [0x0000, 0x0000] := by decide
theorem test_VA25_inc_a :
    words (step (start 0x2000 [0x0A05, 0x0008] [(0x0008, 0x00FF), (0x000A, 0x3000), (0x3000, 0x0007)])) [0x0008, 0x3000] =
      some [0x0100, 0x0007] := by decide
theorem test_VA26_inc_i :
    words (step (start 0x2000 [0x0805, 0x3000] [(0x3000, 0x0007)])) [0x3000] =
      some [0x0008] := by decide
theorem test_VA27_inc_odd :
    words (step (start 0x2000 [0x0805, 0x0005] [(0x0004, 0x00FF), (0x0006, 0xFF00)])) [0x0004, 0x0006] =
      some [0x0001, 0x0001] := by decide
theorem test_VA28_dec :
    words (step (start 0x2000 [0x0906, 0x0008] [(0x0008, 0x0000)])) [0x0008, 0x0004, 0x0006] =
      some [0xFFFF, 0x0000, 0x0001] := by decide
theorem test_VA29_dec :
    words (step (start 0x2000 [0x0906, 0x0008] [(0x0008, 0x0001)])) [0x0008, 0x0004, 0x0006] =
      some [0x0000, 0x0001, 0x0000] := by decide
theorem test_VL1_and :
    words (step (start 0x2000 [0x0207, 0x0008, 0x00FF] [(0x0008, 0x0F0F), (0x0006, 0x0001)])) [0x0008, 0x0004, 0x0006] =
      some [0x000F, 0x0000, 0x0000] := by decide
theorem test_VL2_and :
    words (step (start 0x2000 [0x0107, 0x0008, 0x000A] [(0x0008, 0xF0F0), (0x000A, 0x0F0F)])) [0x0008, 0x0004, 0x0006] =
      some [0x0000, 0x0001, 0x0000] := by decide
theorem test_VL3_or :
    words (step (start 0x2000 [0x0108, 0x0008, 0x000A] [(0x0008, 0x00F0), (0x000A, 0x0F00)])) [0x0008, 0x0004, 0x0006] =
      some [0x0FF0, 0x0000, 0x0000] := by decide
theorem test_VL5_xor :
    words (step (start 0x2000 [0x0209, 0x0008, 0xFFFF] [(0x0008, 0xAAAA)])) [0x0008, 0x0004, 0x0006] =
      some [0x5555, 0x0000, 0x0000] := by decide
theorem test_VL6_xor :
    words (step (start 0x2000 [0x0109, 0x0008, 0x0008] [(0x0008, 0x1234), (0x0006, 0x0001)])) [0x0008, 0x0004, 0x0006] =
      some [0x0000, 0x0001, 0x0000] := by decide
theorem test_VL7_not :
    words (step (start 0x2000 [0x090A, 0x0008] [(0x0008, 0x1234), (0x0006, 0x0001)])) [0x0008, 0x0004, 0x0006] =
      some [0x0000, 0x0001, 0x0000] := by decide
theorem test_VL8_not_zero :
    words (step (start 0x2000 [0x090A, 0x0008] [(0x0008, 0x0000)])) [0x0008, 0x0004, 0x0006] =
      some [0x0000, 0x0001, 0x0000] := by decide
theorem test_VL10_shl :
    words (step (start 0x2000 [0x020B, 0x0008, 0x0001] [(0x0008, 0x8001), (0x0006, 0x0001)])) [0x0008, 0x0004, 0x0006] =
      some [0x0002, 0x0000, 0x0000] := by decide
theorem test_VL13_shl_16 :
    words (step (start 0x2000 [0x020B, 0x0008, 0x0010] [(0x0008, 0xFFFF)])) [0x0008, 0x0004, 0x0006] =
      some [0x0000, 0x0001, 0x0000] := by decide
theorem test_VL16_shr :
    words (step (start 0x2000 [0x020C, 0x0008, 0x0001] [(0x0008, 0x8001)])) [0x0008, 0x0004, 0x0006] =
      some [0x4000, 0x0000, 0x0000] := by decide
theorem test_VL18_shr_16 :
    words (step (start 0x2000 [0x020C, 0x0008, 0x0010] [(0x0008, 0xFFFF)])) [0x0008, 0x0004, 0x0006] =
      some [0x0000, 0x0001, 0x0000] := by decide
theorem test_VC1_cmp :
    words (step (start 0x2000 [0x0110, 0x0008, 0x000A] [(0x0008, 0x0005), (0x000A, 0x0005), (0x0006, 0x0001)])) [0x0008, 0x0004, 0x0006] =
      some [0x0001, 0x0001, 0x0000] := by decide
theorem test_VC2_cmp :
    words (step (start 0x2000 [0x0110, 0x0008, 0x000A] [(0x0008, 0x0005), (0x000A, 0x0006), (0x0004, 0x0001)])) [0x0008, 0x0004, 0x0006] =
      some [0x0000, 0x0000, 0x0000] := by decide
theorem test_VC5_cnt :
    words (step (start 0x2000 [0x0111, 0x0008, 0x000A] [(0x0008, 0x0005), (0x000A, 0x0005), (0x0004, 0x0001)])) [0x0008, 0x0004, 0x0006] =
      some [0x0000, 0x0000, 0x0000] := by decide
theorem test_VC6_cnt :
    words (step (start 0x2000 [0x0211, 0x0008, 0x0006] [(0x0008, 0x0005)])) [0x0008, 0x0004, 0x0006] =
      some [0x0001, 0x0001, 0x0000] := by decide
theorem test_VC7_lge :
    words (step (start 0x2000 [0x0217, 0x0008, 0x0004] [(0x0008, 0x0003), (0x0004, 0x0001)])) [0x0008, 0x0004, 0x0006] =
      some [0x0000, 0x0000, 0x0000] := by decide
theorem test_VC9_lge_unsigned :
    words (step (start 0x2000 [0x0117, 0x0008, 0x000A] [(0x0008, 0x8000), (0x000A, 0x7FFF)])) [0x0008, 0x0004, 0x0006] =
      some [0x0001, 0x0001, 0x0000] := by decide
theorem test_VC10_sme :
    words (step (start 0x2000 [0x0218, 0x0008, 0x0004] [(0x0008, 0x0003)])) [0x0008, 0x0004, 0x0006] =
      some [0x0001, 0x0001, 0x0000] := by decide
theorem test_VC11_sme_unsigned :
    words (step (start 0x2000 [0x0118, 0x0008, 0x000A] [(0x0008, 0x8000), (0x000A, 0x7FFF), (0x0004, 0x0001)])) [0x0008, 0x0004, 0x0006] =
      some [0x0000, 0x0000, 0x0000] := by decide

/-! Every mode but RR of the binary and comparison forms: the same inputs, the word at 0x0008 and the number 3 (R107). -/

theorem test_modes_add :
    ∀ mode ∈ twoOperandModes.tail,
      words (step (start 0x2000 [joinBytes mode 0x01, 0x0008, 0x0003] [(0x0008, 0x0005)])) [0x0008, 0x0004, 0x0006] =
        some [0x0008, 0x0000, 0x0000] := by decide
theorem test_modes_sub :
    ∀ mode ∈ twoOperandModes.tail,
      words (step (start 0x2000 [joinBytes mode 0x02, 0x0008, 0x0003] [(0x0008, 0x0005)])) [0x0008, 0x0004, 0x0006] =
        some [0x0002, 0x0000, 0x0000] := by decide
theorem test_modes_mul :
    ∀ mode ∈ twoOperandModes.tail,
      words (step (start 0x2000 [joinBytes mode 0x03, 0x0008, 0x0003] [(0x0008, 0x0005)])) [0x0008, 0x0004, 0x0006] =
        some [0x000F, 0x0000, 0x0000] := by decide
theorem test_modes_div :
    ∀ mode ∈ twoOperandModes.tail,
      words (step (start 0x2000 [joinBytes mode 0x04, 0x0008, 0x0003] [(0x0008, 0x0005)])) [0x0008, 0x0004, 0x0006] =
        some [0x0001, 0x0000, 0x0000] := by decide
theorem test_modes_and :
    ∀ mode ∈ twoOperandModes.tail,
      words (step (start 0x2000 [joinBytes mode 0x07, 0x0008, 0x0003] [(0x0008, 0x0005)])) [0x0008, 0x0004, 0x0006] =
        some [0x0001, 0x0000, 0x0000] := by decide
theorem test_modes_or :
    ∀ mode ∈ twoOperandModes.tail,
      words (step (start 0x2000 [joinBytes mode 0x08, 0x0008, 0x0003] [(0x0008, 0x0005)])) [0x0008, 0x0004, 0x0006] =
        some [0x0007, 0x0000, 0x0000] := by decide
theorem test_modes_xor :
    ∀ mode ∈ twoOperandModes.tail,
      words (step (start 0x2000 [joinBytes mode 0x09, 0x0008, 0x0003] [(0x0008, 0x0005)])) [0x0008, 0x0004, 0x0006] =
        some [0x0006, 0x0000, 0x0000] := by decide
theorem test_modes_shl :
    ∀ mode ∈ twoOperandModes.tail,
      words (step (start 0x2000 [joinBytes mode 0x0B, 0x0008, 0x0003] [(0x0008, 0x0005)])) [0x0008, 0x0004, 0x0006] =
        some [0x0028, 0x0000, 0x0000] := by decide
theorem test_modes_shr :
    ∀ mode ∈ twoOperandModes.tail,
      words (step (start 0x2000 [joinBytes mode 0x0C, 0x0008, 0x0003] [(0x0008, 0x0005)])) [0x0008, 0x0004, 0x0006] =
        some [0x0000, 0x0001, 0x0000] := by decide
theorem test_modes_cmp :
    ∀ mode ∈ twoOperandModes.tail,
      words (step (start 0x2000 [joinBytes mode 0x10, 0x0008, 0x0003] [(0x0008, 0x0005)])) [0x0008, 0x0004, 0x0006] =
        some [0x0000, 0x0000, 0x0000] := by decide
theorem test_modes_cnt :
    ∀ mode ∈ twoOperandModes.tail,
      words (step (start 0x2000 [joinBytes mode 0x11, 0x0008, 0x0003] [(0x0008, 0x0005)])) [0x0008, 0x0004, 0x0006] =
        some [0x0001, 0x0001, 0x0000] := by decide
theorem test_modes_lge :
    ∀ mode ∈ twoOperandModes.tail,
      words (step (start 0x2000 [joinBytes mode 0x17, 0x0008, 0x0003] [(0x0008, 0x0005)])) [0x0008, 0x0004, 0x0006] =
        some [0x0001, 0x0001, 0x0000] := by decide
theorem test_modes_sme :
    ∀ mode ∈ twoOperandModes.tail,
      words (step (start 0x2000 [joinBytes mode 0x18, 0x0008, 0x0003] [(0x0008, 0x0005)])) [0x0008, 0x0004, 0x0006] =
        some [0x0000, 0x0000, 0x0000] := by decide

/-! Every mode of the unary forms and of POP works on the word at args[0] (R108, D32). -/

theorem test_modes_inc :
    ∀ mode ∈ [(0x08 : Byte), 0x09, 0x0A],
      words (step (start 0x2000 [joinBytes mode 0x05, 0x0008] [(0x0008, 0x0005)])) [0x0008, 0x0004, 0x0006] =
        some [0x0006, 0x0000, 0x0000] := by decide
theorem test_modes_dec :
    ∀ mode ∈ [(0x08 : Byte), 0x09, 0x0A],
      words (step (start 0x2000 [joinBytes mode 0x06, 0x0008] [(0x0008, 0x0005)])) [0x0008, 0x0004, 0x0006] =
        some [0x0004, 0x0000, 0x0000] := by decide
theorem test_modes_not :
    ∀ mode ∈ [(0x08 : Byte), 0x09, 0x0A],
      words (step (start 0x2000 [joinBytes mode 0x0A, 0x0008] [(0x0008, 0x0005)])) [0x0008, 0x0004, 0x0006] =
        some [0x0000, 0x0001, 0x0000] := by decide
theorem test_modes_pop :
    ∀ mode ∈ [(0x08 : Byte), 0x09, 0x0A],
      words (step (start 0x2000 [joinBytes mode 0x0F, 0x0008] [(0x0002, 0x0102), (0x0102, 0x00AA)])) [0x0008, 0x0102, 0x0002] =
        some [0x00AA, 0x0000, 0x0100] := by decide

/-! Data movement, the stack and control transfer. -/

theorem test_VM1_mov_ir :
    words (step (start 0x2000 [0x070D, 0x0041, 0x0008] [])) [0x0008, 0x0000] =
      some [0x0041, 0x2006] := by decide
theorem test_VM2_mov_rr :
    words (step (start 0x2000 [0x010D, 0x0008, 0x000A] [(0x0008, 0x1234)])) [0x000A] =
      some [0x1234] := by decide
theorem test_VM3_mov_ra :
    words (step (start 0x2000 [0x030D, 0x0008, 0x000A] [(0x0008, 0x1234), (0x000A, 0x3000)])) [0x3000] =
      some [0x1234] := by decide
theorem test_VM4_mov_aa :
    words (step (start 0x2000 [0x040D, 0x0008, 0x000A] [(0x0008, 0x3000), (0x000A, 0x3002), (0x3000, 0xBEEF)])) [0x3002] =
      some [0xBEEF] := by decide
theorem test_VM5_mov_ar :
    words (step (start 0x2000 [0x050D, 0x000A, 0x000C] [(0x000A, 0x3000), (0x3000, 0xBEEF)])) [0x000C] =
      some [0xBEEF] := by decide
theorem test_VM6_mov_ia :
    words (step (start 0x2000 [0x060D, 0x4869, 0x000A] [(0x000A, 0x1000)])) [0x1000] =
      some [0x4869] := by decide
theorem test_VM9_mov_odd :
    words (step (start 0x2000 [0x070D, 0xABCD, 0x0009] [(0x0008, 0x1122), (0x000A, 0x3344)])) [0x0008, 0x000A] =
      some [0x11AB, 0xCD44] := by decide
theorem test_VM10_mov_top :
    stopped (step (start 0x2000 [0x060D, 0x0001, 0x0008] [(0x0008, 0xFFFF)])) [0x0000, 0x0008] =
      some (.outOfRange 0xFFFF, [0x2006, 0xFFFF]) := by decide
theorem test_VST3_push_sp :
    words (step (start 0x2000 [0x090E, 0x0002] [])) [0x0002, 0x0102] =
      some [0x0102, 0x0100] := by decide
theorem test_VST6_push_last :
    words (step (start 0x2000 [0x080E, 0x0077] [(0x0002, 0x01FB)])) [0x0002, 0x01FE] =
      some [0x01FD, 0x7700] := by decide
theorem test_VST7_push_full :
    stopped (step (start 0x2000 [0x080E, 0x0077] [(0x0002, 0x01FC)])) [0x0000, 0x0002, 0x01FE] =
      some (.stackOverflow, [0x2004, 0x01FC, 0x0000]) := by decide
theorem test_VST7_push_full_queues : queued (step (start 0x2000 [0x080E, 0x0077] [(0x0002, 0x01FC)])) = some 1 := by decide
theorem test_VST10_pop_empty :
    words (step (start 0x2000 [0x090F, 0x000A] [(0x0100, 0x0055)])) [0x000A, 0x0100, 0x0002] =
      some [0x0055, 0x0000, 0x0100] := by decide
theorem test_VST11_pop_a :
    words (step (start 0x2000 [0x0A0F, 0x0008] [(0x0002, 0x0102), (0x0008, 0x3000), (0x0102, 0x00AA)])) [0x0008, 0x3000] =
      some [0x00AA, 0x0000] := by decide
theorem test_VST13_pop_sp :
    words (step (start 0x2000 [0x090F, 0x0002] [(0x0002, 0x0104), (0x0104, 0x0180)])) [0x0002] =
      some [0x0180] := by decide
theorem test_VST16_pop_top :
    stopped (step (start 0x2000 [0x080F, 0xFFFF] [(0x0002, 0x0102), (0x0102, 0x00AA)])) [0x0002, 0x0102, 0x0000] =
      some (.outOfRange 0xFFFF, [0x0100, 0x0000, 0x2004]) := by decide
theorem test_VJ1_jif_taken :
    words (step (start 0x200A [0x0812, 0x2012] [(0x0004, 0x0001)])) [0x0000] =
      some [0x2012] := by decide
theorem test_VJ3_jif_two :
    words (step (start 0x200A [0x0812, 0x2012] [(0x0004, 0x0002)])) [0x0000] =
      some [0x200E] := by decide
theorem test_VJ4_jif_r :
    words (step (start 0x2000 [0x0912, 0x0008] [(0x0004, 0x0001), (0x0008, 0x4000)])) [0x0000] =
      some [0x4000] := by decide
theorem test_VJ5_jmp :
    words (step (start 0x200E [0x0813, 0x2006] [])) [0x0000] =
      some [0x2006] := by decide
theorem test_VJ6_jmp_odd :
    words (step (start 0x2000 [0x0913, 0x0008] [(0x0008, 0x4001)])) [0x0000] =
      some [0x4001] := by decide
theorem test_VJ9_call :
    words (step (start 0x2000 [0x0814, 0x2006] [])) [0x0000, 0x0002, 0x0102] =
      some [0x2006, 0x0102, 0x2004] := by decide
theorem test_VJ11_call_sp :
    words (step (start 0x2000 [0x0914, 0x0002] [])) [0x0000, 0x0002, 0x0102] =
      some [0x0100, 0x0102, 0x2004] := by decide
theorem test_VJ12_call_full :
    stopped (step (start 0x2000 [0x0814, 0x2006] [(0x0002, 0x01FC)])) [0x0000, 0x0002] =
      some (.stackOverflow, [0x2004, 0x01FC]) := by decide
theorem test_VJ13_ret :
    words (step (start 0x200C [0x0015] [(0x0002, 0x0102), (0x0102, 0x2004)])) [0x0000, 0x0002, 0x0102] =
      some [0x2004, 0x0100, 0x0000] := by decide
theorem test_VJ15_hlt : status (step (start 0x2004 [0x0016] [])) = some .halted := by decide

/-! Fetch overruns and illegal encodings. -/

/-- The CP and the queue's length where a fetch overruns. -/
def overran (f : Fetched) : Option (Word × Nat) :=
  match f with
  | .overrun s => some (s.cp, s.irq.length)
  | _ => none

theorem test_VF1_overrun : overran (fetchInstr (start 0xFFFE [] [])) = some (0xFFFE, 1) := by decide
theorem test_VF3_overrun : overran (fetchInstr (start 0xFFFF [] [])) = some (0xFFFF, 1) := by decide
theorem test_VF8_operand_overrun : overran (fetchInstr (start 0xFFFA [0x070D, 0x0041] [])) = some (0xFFFE, 1) := by decide
theorem test_VF1_overrun_halts : status (step (start 0xFFFE [] [])) = some .halted := by decide
theorem test_VF5_hlt_at_FFFD :
    words (step (start 0xFFFD [] [(0xFFFC, 0x0000), (0xFFFE, 0x1600)])) [0x0000, 0x0002] =
      some [0xFFFF, 0x0100] := by decide
theorem test_VF10_mode_first :
    stopped (step (start 0xFFFC [0xFF16] [])) [0x0000] =
      some (.illegalInstruction 0xFF16, [0xFFFE]) := by decide
theorem test_VF11_overrun_first : status (step (start 0xFFFC [0x0900] [])) = some .halted := by decide
theorem test_VI1_zero :
    stopped (step (start 0x2000 [0x0000] [])) [0x0000] =
      some (.illegalInstruction 0x0000, [0x2002]) := by decide
theorem test_VI2_mode :
    stopped (step (start 0x2000 [0x0D01] [])) [0x0000] =
      some (.illegalInstruction 0x0D01, [0x2002]) := by decide
theorem test_VI4_opcode :
    stopped (step (start 0x2000 [0x0119, 0x0008, 0x000A] [])) [0x0000] =
      some (.illegalInstruction 0x0119, [0x2006]) := by decide
theorem test_VI6_hlt_i :
    stopped (step (start 0x2000 [0x0816, 0x0000] [])) [0x0000] =
      some (.illegalInstruction 0x0816, [0x2004]) := by decide
theorem test_VI10_add_top :
    stopped (step (start 0x2000 [0x0101, 0x0008, 0xFFFF] [(0x0008, 0x0005)])) [0x0008, 0x0000] =
      some (.outOfRange 0xFFFF, [0x0005, 0x2006]) := by decide

/-! Interrupt delivery; the instruction is INC AX where none is named. -/

/-- A key record. -/
def key : Record := { code := 0x0041, reason := .irKeyboard }

/-- INC AX at 0x2000 with the key handler at 0x3000. -/
def keyReady : State := start 0x2000 [0x0905, 0x0008] [(0x0014, 0x3000)]

theorem test_VX1_delivery :
    words (step { keyReady with irq := [key] }) [0x0008, 0x0002, 0x0102, 0x0010, 0x0000] =
      some [0x0001, 0x0102, 0x2004, 0x0041, 0x3000] := by decide
theorem test_VX2_late_arrival :
    words (step { keyReady with inputs := [{ early := [], late := [.enqueue key] }] }) [0x0010, 0x0000] =
      some [0x0041, 0x3000] := by decide
theorem test_VX3_oldest_first :
    queued (step { keyReady with irq := [key, { code := 0x0007, reason := .irState }] }) = some 1 := by decide
theorem test_VX6_delivery_full :
    stopped (step { keyReady.setSp 0x01FC with irq := [key] }) [0x0008, 0x0000, 0x0002, 0x0010] =
      some (.stackOverflow, [0x0001, 0x2004, 0x01FC, 0xFFFF]) := by decide
theorem test_VX7_closed :
    stopped (step { keyReady with irqClosed := true }) [0x0008, 0x0000] = some (.queueClosed, [0x0001, 0x2004]) := by decide
theorem test_VX8_closed_hlt :
    stopped (step { start 0x2000 [0x0016] [] with irqClosed := true }) [0x0000] = some (.queueClosed, [0x2002]) := by decide
theorem test_VX10_fatal_keeps_queue :
    queued (step { start 0x2000 [0x0204, 0x0008, 0x0000] [] with irq := [key] }) = some 1 := by decide
theorem test_VX12_ret_from_handler :
    words (step (start 0x3000 [0x0015] [(0x0002, 0x0102), (0x0102, 0x2004), (0x0010, 0x0041)])) [0x0000, 0x0002, 0x0010] =
      some [0x2004, 0x0100, 0x0041] := by decide
theorem test_VJ16_hlt_delivers :
    words (step { start 0x2004 [0x0016] [(0x0014, 0x3000)] with irq := [key] }) [0x0000, 0x0102] = some [0x3000, 0x2006] := by
  decide


/-- R53: `in_range(a)` iff `a < 65 536`. -/
theorem test_inRange_at_the_end : inRange 0xFFFF ∧ ¬ inRange 0x10000 := by decide

/-! ### Witnesses: for each obligation with hypotheses, a concrete state and operands that meet all of them together

Where a statement has several clauses, the witness has one part for each, at a boundary value. -/

theorem witness_DecodedBytesAreTheEncoding :
    decode [0x02, 0x01, 0x00, 0x08, 0x00, 0x01, 0xFF] = .ok (.addRI 0x0008 0x0001, [0xFF]) := by rfl

theorem witness_LengthFollowsFromTheModeByte :
    Mode.ofByte 0x0C = some .ai ∧ decode [0x0C, 0x01, 0, 8, 0, 1] = .ok (.addAI 0x0008 0x0001, []) ∧ Mode.ofByte 0x0D = none :=
  ⟨rfl, rfl, rfl⟩

theorem witness_HeadersOutsideTheAdmittedPairsAreRefused :
    0x0C < highByte 0x0D01 ∧
      (highByte 0x0C00 ≤ 0x0C ∧ lowByte 0x0C00 = 0x00) ∧ (highByte 0x0C19 ≤ 0x0C ∧ 0x18 < lowByte 0x0C19) ∧
      (highByte 0x0C16 ≤ 0x0C ∧ lowByte 0x0C16 ≠ 0x00 ∧ lowByte 0x0C16 ≤ 0x18 ∧
        highByte 0x0C16 ∉ admittedModes (lowByte 0x0C16)) ∧
      highByte 0x0C18 ∈ admittedModes (lowByte 0x0C18) := by decide

theorem witness_WordReadIsBigEndian : (0xFFFF : Word).toNat + 1 > 0xFFFF ∧ (0xFFFE : Word).toNat + 1 ≤ 0xFFFF := by decide

theorem witness_WordWriteStoresTwoBytes : (0xFFFF : Word).toNat + 1 > 0xFFFF ∧ (0xFFFE : Word).toNat + 1 ≤ 0xFFFF := by
  decide

theorem witness_OverlappingWordWrites : (0xFFFD : Word).toNat + 2 ≤ 0xFFFF := by decide

theorem witness_EqualBytesAreEqualMemories :
    let m := Memory.atReset.setByte 0x0008 0x01
    let n := { Memory.atReset with cells := [(0x0008, 0x01)] }
    m.wf ∧ n.wf ∧ ∀ a, a < 0x10000 → m.byteAt a = n.byteAt a := ⟨by decide, by decide, fun _ _ => rfl⟩

theorem witness_AddStoresSumAndFlags : (0xFFFE : Word) ≠ 0xFFFF ∧ (0x0000 : Word) ≠ 0xFFFF ∧ Instr.addII ∈ addForms :=
  ⟨by decide, by decide, by simp [addForms]⟩

theorem witness_SubStoresDifferenceAndFlags : (0xFFFE : Word) ≠ 0xFFFF ∧ (0x0000 : Word) ≠ 0xFFFF ∧ Instr.subAR ∈ subForms :=
  ⟨by decide, by decide, by simp [subForms]⟩

theorem witness_MulStoresLowProductAndFlags : (0xFFFE : Word) ≠ 0xFFFF ∧ (0x0000 : Word) ≠ 0xFFFF ∧ Instr.mulAI ∈ mulForms :=
  ⟨by decide, by decide, by simp [mulForms]⟩

theorem witness_DivStoresQuotientAndFlags :
    (0xFFFE : Word) ≠ 0xFFFF ∧ (0x000A : Word) ≠ 0xFFFF ∧ (start 0x2000 [] [(0x000A, 0x0001)]).word 0x000A ≠ 0 ∧
      Instr.divIR ∈ divForms ∧ (0x0001 : Word) ≠ 0 :=
  ⟨by decide, by decide, by decide, by simp [divForms], by decide⟩

theorem witness_DivByZeroIsFatal :
    (0xFFFE : Word) ≠ 0xFFFF ∧ (0x000A : Word) ≠ 0xFFFF ∧ State.reset.word 0x000A = 0 ∧ Instr.divRI ∈ divForms ∧
      (0x0000 : Word) = 0 := ⟨by decide, by decide, by decide, by simp [divForms], rfl⟩

theorem witness_IncAndDecStepByOneAndSetFlags :
    (0xFFFE : Word) ≠ 0xFFFF ∧ Instr.incA ∈ [Instr.incI, .incR, .incA] ∧ Instr.decI ∈ [Instr.decI, .decR, .decA] :=
  ⟨by decide, by simp, by simp⟩

theorem witness_AndOrXorStoreBitsAndClearCarry :
    (0xFFFE : Word) ≠ 0xFFFF ∧ (0x000A : Word) ≠ 0xFFFF ∧ Instr.andRA ∈ andForms ∧ Instr.orIA ∈ orForms ∧
      Instr.xorAI ∈ xorForms := ⟨by decide, by decide, by simp [andForms], by simp [orForms], by simp [xorForms]⟩

theorem witness_NotStoresZero : (0xFFFE : Word) ≠ 0xFFFF ∧ Instr.notA ∈ [Instr.notI, .notR, .notA] := ⟨by decide, by simp⟩

theorem witness_ShiftsUseTheWholeCount :
    (0xFFFE : Word) ≠ 0xFFFF ∧ (0x000A : Word) ≠ 0xFFFF ∧ Instr.shlRI ∈ shlForms ∧ Instr.shrAI ∈ shrForms :=
  ⟨by decide, by decide, by simp [shlForms], by simp [shrForms]⟩

theorem witness_CmpAndCntStoreEquality :
    (0xFFFE : Word) ≠ 0xFFFF ∧ (0x000A : Word) ≠ 0xFFFF ∧ Instr.cmpRI ∈ cmpForms ∧ Instr.cntAI ∈ cntForms :=
  ⟨by decide, by decide, by simp [cmpForms], by simp [cntForms]⟩

theorem witness_LgeAndSmeStoreUnsignedOrder :
    (0xFFFE : Word) ≠ 0xFFFF ∧ (0x000A : Word) ≠ 0xFFFF ∧ Instr.lgeRI ∈ lgeForms ∧ Instr.smeAI ∈ smeForms :=
  ⟨by decide, by decide, by simp [lgeForms], by simp [smeForms]⟩

/-- Two pointers into the last word of memory. -/
def pointers : State := start 0x2000 [] [(0x0008, 0xFFFE), (0x000A, 0xFFFE)]

theorem witness_MovStoresSourceAtTarget :
    (0x0008 : Word) ≠ 0xFFFF ∧ (0x000A : Word) ≠ 0xFFFF ∧ pointers.word 0x0008 ≠ 0xFFFF ∧ pointers.word 0x000A ≠ 0xFFFF := by
  decide

theorem witness_MovOutOfRangeIsFatal :
    let s := start 0x2000 [] [(0x0008, 0xFFFF), (0x000A, 0xFFFF)]
    (0xFFFF : Word) = 0xFFFF ∧ s.word 0x0008 = 0xFFFF ∧ s.word 0x000A = 0xFFFF := by decide

theorem witness_PushStoresValueAboveSp :
    pushFits (start 0x2000 [] [(0x0002, 0x01FB)]) ∧ (0x0008 : Word) ≠ 0xFFFF :=
  ⟨by unfold pushFits; decide, by decide⟩

theorem witness_PushAndCallOverflowIsFatal :
    ¬ pushFits (start 0x2000 [] [(0x0002, 0x01FC)]) ∧ (0x0008 : Word) ≠ 0xFFFF :=
  ⟨by unfold pushFits; decide, by decide⟩

theorem witness_PopStoresTopAndClearsIt :
    (start 0x2000 [] [(0x0002, 0xFFFE)]).sp ≠ 0xFFFF ∧ (0xFFFE : Word) ≠ 0xFFFF ∧ Instr.popA ∈ [Instr.popI, .popR, .popA] :=
  ⟨by decide, by decide, by simp⟩

theorem witness_PopAndRetOutOfRangeIsFatal :
    (start 0x2000 [] [(0x0002, 0xFFFF)]).sp = 0xFFFF ∧ State.reset.sp ≠ 0xFFFF ∧
      Instr.popI ∈ [Instr.popI, .popR, .popA] := ⟨by decide, by decide, by simp⟩

theorem witness_JifJumpsOnZeroFlagOne : (0x0008 : Word) ≠ 0xFFFF := by decide

theorem witness_JmpWritesCp : (0xFFFE : Word) ≠ 0xFFFF ∧ (0xFFFF : Word) = 0xFFFF := by decide

theorem witness_CallPushesReturnAddressAndJumps :
    pushFits (start 0x2000 [] [(0x0002, 0x01FB)]) ∧ (0x0008 : Word) ≠ 0xFFFF :=
  ⟨by unfold pushFits; decide, by decide⟩

theorem witness_RetPopsIntoCp : State.reset.sp ≠ 0xFFFF := by decide

theorem witness_OperandAddressOutOfRangeIsFatal :
    Instr.smeRR ∈ rrForms ∧ ((0x0008 : Word) = 0xFFFF ∨ (0xFFFF : Word) = 0xFFFF) ∧ Instr.lgeII ∈ valueForms ∧
      Instr.callR ∈ unaryForms ++ [Instr.pushR, .jifR, .callR] :=
  ⟨by simp [rrForms], .inr rfl, by simp [valueForms, lgeForms], by simp⟩

theorem witness_AluFormsFrame :
    (Instr.addRR ∈ rrForms ++ valueForms ∧ ∃ t, exec (.addRR 0x0008 0x000A) State.reset = .next t) ∧
      Instr.notA ∈ unaryForms ∧ ∃ t, exec (.notA 0x0008) State.reset = .next t :=
  ⟨⟨by simp [rrForms], _, rfl⟩, by simp [unaryForms], _, rfl⟩

theorem witness_MovFrame :
    (Instr.movAR ∈ [Instr.movRR, .movAR, .movIR] ∧ ∃ t, exec (.movAR 0x0008 0x000A) pointers = .next t) ∧
      Instr.movAA ∈ [Instr.movRA, .movAA, .movIA] ∧ ∃ t, exec (.movAA 0x0008 0x000A) pointers = .next t :=
  ⟨⟨by simp, _, rfl⟩, by simp, _, rfl⟩

theorem witness_StackFormsFrame :
    (∃ t, exec (.pushR 0x0008) State.reset = .next t) ∧ (∃ t, exec (.popA 0x0008) State.reset = .next t) ∧
      (∃ t, exec (.callR 0x0008) State.reset = .next t) ∧ ∃ t, exec .ret State.reset = .next t :=
  ⟨⟨_, rfl⟩, ⟨_, rfl⟩, ⟨_, rfl⟩, _, rfl⟩

theorem witness_JumpAndHaltFrame :
    (∃ t, exec (.jifR 0x0008) State.reset = .next t) ∧ (∃ t, exec (.jmpI 0x0008) State.reset = .next t) ∧
      ∃ t, exec .hlt State.reset = .next t := ⟨⟨_, rfl⟩, ⟨_, rfl⟩, _, rfl⟩

theorem witness_CompletedInstructionKeepsQueueAndLatches :
    (∃ t, exec .hlt { keyReady with irq := [key] } = .next t) ∧ ∃ t, exec (.pushI 0x0001) keyReady = .next t :=
  ⟨⟨_, rfl⟩, _, rfl⟩

theorem witness_InstructionFaultsAreTheSpecsKinds :
    (∃ f, exec (.incI 0xFFFF) State.reset = .fault f) ∧ (∃ f, exec (.divRI 0x0008 0x0000) State.reset = .fault f) ∧
      ∃ f, exec (.callI 0x2000) (start 0x2000 [] [(0x0002, 0x01FC)]) = .fault f := ⟨⟨_, rfl⟩, ⟨_, rfl⟩, _, rfl⟩

theorem witness_FlagsReadBackAsZeroOrOne :
    (Instr.divRI ∈ rrForms ++ valueForms ∧ (∃ t, exec (.divRI 0x0005 0x0001) State.reset = .next t) ∧
      (Instr.divRI 0x0005 0x0001).fields.1 ∉ [Opcode.add, .sub, .mul]) ∧
    Instr.notI ∈ unaryForms ∧ (∃ t, exec (.notI 0x0005) State.reset = .next t) ∧ (Instr.notI 0x0005).fields.1 = Opcode.not :=
  ⟨⟨by simp [valueForms, divForms], ⟨_, rfl⟩, by decide⟩, by simp [unaryForms], ⟨_, rfl⟩, rfl⟩

theorem witness_JifAfterComparisonFollowsTheRelation :
    (∃ t, exec (.cmpRR 0x0008 0x000A) State.reset = .next t) ∧ (∃ t, exec (.cntRR 0x0008 0x000A) State.reset = .next t) ∧
      (∃ t, exec (.lgeRR 0x0008 0x000A) State.reset = .next t) ∧ ∃ t, exec (.smeRR 0x0008 0x000A) State.reset = .next t :=
  ⟨⟨_, rfl⟩, ⟨_, rfl⟩, ⟨_, rfl⟩, _, rfl⟩

theorem witness_PushThenPopReturnsValue :
    0x0100 ≤ State.reset.sp.toNat ∧ (∃ t, exec (.pushI 0x1234) State.reset = .next t) ∧ (0xFFFE : Word) ≠ 0xFFFF :=
  ⟨by decide, ⟨_, rfl⟩, by decide⟩

/-- The highest even SP a push still fits at. -/
def lastSlot : State := start 0x2000 [] [(0x0002, 0x01FA)]

theorem witness_StackStaysInRange :
    lastSlot.stackInRange ∧ (∃ t, exec (.pushI 0x1234) lastSlot = .next t) ∧ (∃ t, exec .ret lastSlot = .next t) ∧
      ∃ t, takeInterrupt key [] lastSlot = .next t :=
  ⟨by unfold State.stackInRange; decide, ⟨_, rfl⟩, ⟨_, rfl⟩, _, rfl⟩

theorem witness_CallThenRetResumes :
    0x0100 ≤ lastSlot.sp.toNat ∧ ∃ t, exec (.callI 0x2006) lastSlot = .next t := ⟨by decide, _, rfl⟩

theorem witness_StepRunsTheDecodedInstruction :
    let s := start 0xFFF9 [0x0201, 0x0008, 0x0001] []
    s.status = .running ∧ s.mem.wf ∧ s.cp.toNat + (Instr.addRI 0x0008 0x0001).length ≤ 0xFFFF ∧
      decode (bytesAtCp s) = .ok (.addRI 0x0008 0x0001, []) := ⟨rfl, by decide, by decide, rfl⟩

theorem witness_HeaderOverrunHaltsThroughTheQueue :
    let s := start 0xFFFE [] [(0x0002, 0x01FB)]
    s.status = .running ∧ 0xFFFD < s.cp.toNat ∧ 0x0100 ≤ s.sp.toNat ∧ s.sp.toNat ≤ 0x01FB ∧ s.irq = [] ∧
      s.irqClosed = false ∧ s.inputs = [] := by decide

theorem witness_OperandOverrunAbandonsTheInstruction :
    let s := start 0xFFFC [0x0905] []
    s.status = .running ∧ s.cp.toNat ≤ 0xFFFD ∧ Mode.ofByte (s.byte s.cp.toNat) = some .r ∧
      0xFFFD < s.cp.toNat + 2 * Mode.r.operandCount := by decide

theorem witness_IllegalHeaderIsFatal :
    (let s := start 0xFFFC [0x0D01] [];
      s.status = .running ∧ s.cp.toNat ≤ 0xFFFD ∧ 0x0C < s.byte s.cp.toNat) ∧
    (let s := start 0xFFF9 [0x0119, 0x0008, 0x000A] [];
      s.status = .running ∧ s.cp.toNat ≤ 0xFFFD ∧ Mode.ofByte (s.byte s.cp.toNat) = some .rr ∧
        s.cp.toNat + 2 * Mode.rr.operandCount ≤ 0xFFFD ∧
        s.byte s.cp.toNat ∉ admittedModes (s.byte (s.cp.toNat + 1))) := by decide

theorem witness_StoppedMachineTakesNoStep : { State.reset with running := false, status := .halted }.status ≠ .running := by
  decide

theorem witness_MachineHaltsExactlyByHltOrOverrun :
    keyReady.running = true ∧ (∃ t, step keyReady = .next t) ∧ State.reset.running = true ∧ ∃ t, step State.reset = .next t :=
  ⟨rfl, ⟨_, rfl⟩, rfl, _, rfl⟩

theorem witness_DeliveryPushesCpAndJumpsThroughTheCell :
    let s := { lastSlot with irq := [key] }
    s.irqClosed = false ∧ s.irq = [key] ∧ 0x0100 ≤ s.sp.toNat ∧ pushFits s :=
  ⟨rfl, rfl, by decide, by unfold pushFits; decide⟩

theorem witness_DeliveryWithoutRoomOrQueue :
    { State.reset with irqClosed := true }.irqClosed = true ∧ (State.reset.irqClosed = false ∧ State.reset.irq = []) ∧
      (let s := { start 0x2000 [] [(0x0002, 0x01FC)] with irq := [key] };
      s.irqClosed = false ∧ s.irq = [key] ∧ ¬ pushFits s) :=
  ⟨rfl, ⟨rfl, rfl⟩, rfl, rfl, by unfold pushFits; decide⟩

theorem witness_RetFromHandlerResumes :
    0x0100 ≤ lastSlot.sp.toNat ∧ ∃ t, takeInterrupt key [] lastSlot = .next t := ⟨by decide, _, rfl⟩

theorem witness_StepTakesAtMostTheOldestRecord :
    (∃ t, step { keyReady with irq := [key, key], inputs := [{ early := [.enqueue key], late := [.enqueue key] }] } = .next t) ∧
      ∃ t, step (start 0xFFFE [] []) = .next t := ⟨⟨_, rfl⟩, _, rfl⟩

theorem witness_QueuedRecordIsDeliveredInTurn :
    let s := { start 0x2000 [0x0813, 0x2000] [(0x0014, 0x2000)] with irq := [key, key] }
    s.irq = [key] ++ key :: [] ∧ ∃ t, Host.Core.run Sys2Proof.core 2 s = .next t := ⟨rfl, _, rfl⟩

theorem witness_ImageIsLoadedAtCodeBase :
    (List.replicate 0xE000 (0 : Byte)).length ≤ 0xE000 ∧ 0xE000 < (List.replicate 0xE001 (0 : Byte)).length := by
  simp only [List.length_replicate]
  omega

theorem witness_StepKeepsTheInvariant : keyReady.Inv ∧ ∃ t, step keyReady = .next t :=
  ⟨⟨by decide, ⟨fun _ => rfl, fun _ => rfl⟩⟩, _, rfl⟩

end Sys2Proof.Tests
end

section
/-! The state family: what the canonical form of memory determines (10_state.md R20, R38). -/

namespace Sys2Proof.Machine

theorem paletteIndex_outColors_add (k : Fin 16) : paletteIndex (outColors + k) = some k := by
  have hlt := k.isLt
  have hk : outColors ≤ outColors + k ∧ outColors + k < outColors + 16 := by omega
  simp [paletteIndex, hk]

/-- A palette byte reads as the palette has it. -/
theorem Memory.byteAt_palette (m : Memory) (k : Fin 16) : m.byteAt (outColors + k) = m.palette[k] := by
  simp [Memory.byteAt, paletteIndex_outColors_add]

/-- Any other byte reads as the cells have it. -/
theorem Memory.byteAt_of_not_palette (m : Memory) {a : Nat} (h : paletteIndex a = none) :
    m.byteAt a = lookupCell m.cells a := by
  simp [Memory.byteAt, h]

/-- An address no cell lists reads as its boot content. -/
theorem lookupCell_of_not_listed {cells : List Host.Cell} {a : Nat} (h : ∀ c ∈ cells, c.1 ≠ a) :
    lookupCell cells a = bootByte a := by
  induction cells with
  | nil => rfl
  | cons c rest ih =>
    rw [lookupCell, if_neg (h c (by simp)), ih fun d hd => h d (by simp [hd])]

/-- With rising addresses a listed cell is the one its address reads. -/
theorem lookupCell_of_mem {cells : List Host.Cell} (hs : cells.Pairwise fun c d => c.1 < d.1) {c : Host.Cell}
    (hc : c ∈ cells) : lookupCell cells c.1 = c.2 := by
  induction cells with
  | nil => cases hc
  | cons d rest ih =>
    obtain ⟨hd, hrest⟩ := List.pairwise_cons.1 hs
    rcases List.mem_cons.1 hc with rfl | hc
    · exact if_pos rfl
    · rw [lookupCell, if_neg (Nat.ne_of_lt (hd c hc)), ih hrest hc]

/-- In canonical form the cells are exactly the bytes that read otherwise than at boot. -/
theorem Memory.mem_cells_iff {m : Memory} (hm : m.wf) {c : Host.Cell} :
    c ∈ m.cells ↔ lookupCell m.cells c.1 = c.2 ∧ c.2 ≠ bootByte c.1 := by
  obtain ⟨hsorted, hcells⟩ := hm
  refine ⟨fun hc => ⟨lookupCell_of_mem hsorted hc, (hcells c hc).2.2⟩, fun ⟨hread, hne⟩ => ?_⟩
  by_contra hc
  refine hne (hread.symm.trans (lookupCell_of_not_listed fun d hd heq => hc ?_))
  have hval : d.2 = c.2 := by rw [← lookupCell_of_mem hsorted hd, heq, hread]
  rwa [← Prod.ext heq hval]

/-- In canonical form no cell lists a palette byte or an address outside the array. -/
theorem Memory.lookupCell_eq_bootByte {m : Memory} (hm : m.wf) {a : Nat} (h : ¬ (inRange a ∧ paletteIndex a = none)) :
    lookupCell m.cells a = bootByte a := by
  obtain ⟨_, hcells⟩ := hm
  refine lookupCell_of_not_listed fun c hc heq => h ?_
  obtain ⟨hrange, hpalette, _⟩ := hcells c hc
  exact heq ▸ ⟨hrange, hpalette⟩

/-- Two canonical memories that read alike have cells that read alike, at every address. -/
theorem Memory.lookupCell_congr {m n : Memory} (hm : m.wf) (hn : n.wf)
    (h : ∀ a, inRange a → m.byteAt a = n.byteAt a) (a : Nat) : lookupCell m.cells a = lookupCell n.cells a := by
  by_cases ha : inRange a ∧ paletteIndex a = none
  · obtain ⟨hrange, hpalette⟩ := ha
    rw [← m.byteAt_of_not_palette hpalette, ← n.byteAt_of_not_palette hpalette, h a hrange]
  · rw [Memory.lookupCell_eq_bootByte hm ha, Memory.lookupCell_eq_bootByte hn ha]

/-- Two lists of rising addresses with the same cells are the same list. -/
theorem cells_eq_of_mem_iff {cells cells' : List Host.Cell} (hs : cells.Pairwise fun c d => c.1 < d.1)
    (hs' : cells'.Pairwise fun c d => c.1 < d.1) (h : ∀ c, c ∈ cells ↔ c ∈ cells') : cells = cells' :=
  have : Std.Irrefl fun c d : Host.Cell => c.1 < d.1 := ⟨fun _ => Nat.lt_irrefl _⟩
  have : Std.Antisymm fun c d : Host.Cell => c.1 < d.1 := ⟨fun _ _ hcd hdc => absurd hcd (Nat.lt_asymm hdc)⟩
  hs.eq_of_mem_iff hs' h

/-- Settles O9: the palette is read at its sixteen addresses, and in canonical form the cells are determined by what
the other addresses read as. -/
theorem equalBytesAreEqualMemories : Obligations.EqualBytesAreEqualMemories := by
  intro m n hm hn hbytes
  have hcells : m.cells = n.cells := by
    refine cells_eq_of_mem_iff hm.1 hn.1 fun c => ?_
    rw [Memory.mem_cells_iff hm, Memory.mem_cells_iff hn, Memory.lookupCell_congr hm hn hbytes]
  have hpalette : m.palette = n.palette := by
    refine Vector.ext fun k hk => ?_
    have hread := hbytes (outColors + k) (by simp only [outColors]; omega)
    have hm' := m.byteAt_palette ⟨k, hk⟩
    have hn' := n.byteAt_palette ⟨k, hk⟩
    exact hm'.symm.trans (hread.trans hn')
  exact congrArg₂ Memory.mk hcells hpalette

end Sys2Proof.Machine
end

section
/-! The state family: what a completed instruction, a delivery and a step can change (10_state.md R33 to R37). -/

namespace Sys2Proof.Machine

open Claims

/-- `t` is `s` after some word stores: all that a completed instruction other than HLT does. -/
inductive Stores (s : State) : State → Prop
  | refl : Stores s s
  | put {u : State} (h : Stores s u) (a v : Word) : Stores s (u.putWord a v)

section
variable {s t u : State}

theorem Stores.setCp (h : Stores s u) (v : Word) : Stores s (u.setCp v) := h.put cpCell v

theorem Stores.setSp (h : Stores s u) (v : Word) : Stores s (u.setSp v) := h.put spCell v

theorem Stores.trans (h : Stores s t) (k : Stores t u) : Stores s u := by
  induction k with
  | refl => exact h
  | put _ a v ih => exact ih.put a v

/-- Word stores leave everything but memory as it was. -/
theorem Stores.keepsOutside (h : Stores s t) : keepsOutside s t := by
  induction h with
  | refl => exact ⟨rfl, rfl, rfl, rfl, rfl⟩
  | put _ _ _ ih => exact ih

theorem Stores.running (h : Stores s t) : t.running = s.running := by
  induction h with
  | refl => rfl
  | put _ _ _ ih => exact ih

theorem Stores.status (h : Stores s t) : t.status = s.status :=
  have ⟨_, hstatus, _⟩ := h.keepsOutside
  hstatus

/-- Word stores keep the canonical form. -/
theorem Stores.wf (h : Stores s t) (hs : s.mem.wf) : t.mem.wf := by
  induction h with
  | refl => exact hs
  | put _ a v ih => exact Memory.setWord_wf _ v ih

/-! ### The shared operations -/

theorem storeWord_stores {a v : Word} (h : storeWord a v s = .next t) : Stores s t := by
  obtain ⟨_, rfl⟩ := storeWord_eq_next.1 h
  exact .put .refl a v

theorem storeResult_stores {a r zf cf : Word} (h : storeResult a r zf cf s = .next t) : Stores s t := by
  obtain ⟨_, rfl⟩ := storeResult_eq_next.1 h
  exact .put (.put (.put .refl _ _) _ _) _ _

theorem stackPush_stores {v : Word} (h : stackPush v s = .next t) : Stores s t := by
  obtain ⟨_, rfl⟩ := stackPush_eq_next.1 h
  exact .put (.setSp .refl _) _ _

theorem popped_stores (s : State) : Stores s s.popped := by
  unfold State.popped
  split
  · exact .setSp (.put .refl _ _) _
  · exact .put .refl _ _

/-- Past the binary contract nothing but its continuation has acted. -/
theorem binaryOperands_stores {mode : Mode} {a b : Word} {k : Word → Word → Out}
    (h : binaryOperands mode a b s k = .next t) (hk : ∀ v1 v2, k v1 v2 = .next t → Stores s t) : Stores s t :=
  have ⟨_, _, hnext⟩ := binaryOperands_eq_next h
  hk _ _ hnext

/-- A binary instruction with a result, past its operands. -/
theorem binaryResult_stores {mode : Mode} {a b : Word} {x : Word → Word → Int} {carryKind : Bool}
    (h : binaryOperands mode a b s (fun v1 v2 => writeResult a (x v1 v2) carryKind s) = .next t) : Stores s t :=
  binaryOperands_stores h fun _ _ => storeResult_stores

/-- A unary instruction with a result, past its operand. -/
theorem unaryResult_stores {a : Word} {x : Word → Int} {carryKind : Bool}
    (h : unaryOperand a s (fun v1 => writeResult a (x v1) carryKind s) = .next t) : Stores s t :=
  have ⟨_, hnext⟩ := unaryOperand_eq_next.1 h
  storeResult_stores hnext

theorem compareWords_stores {rel : Word → Word → Bool} {mode : Mode} {a b : Word}
    (h : compareWords rel mode a b s = .next t) : Stores s t :=
  binaryOperands_stores h fun _ _ => storeResult_stores

/-! ### The instructions -/

section
variable {mode : Mode} {a b : Word}

theorem addWords_stores (h : addWords mode a b s = .next t) : Stores s t := binaryResult_stores h
theorem subWords_stores (h : subWords mode a b s = .next t) : Stores s t := binaryResult_stores h
theorem mulWords_stores (h : mulWords mode a b s = .next t) : Stores s t := binaryResult_stores h
theorem andWords_stores (h : andWords mode a b s = .next t) : Stores s t := binaryResult_stores h
theorem orWords_stores (h : orWords mode a b s = .next t) : Stores s t := binaryResult_stores h
theorem xorWords_stores (h : xorWords mode a b s = .next t) : Stores s t := binaryResult_stores h
theorem shlWords_stores (h : shlWords mode a b s = .next t) : Stores s t := binaryResult_stores h
theorem shrWords_stores (h : shrWords mode a b s = .next t) : Stores s t := binaryResult_stores h

theorem divWords_stores (h : divWords mode a b s = .next t) : Stores s t := by
  refine binaryOperands_stores h fun v1 v2 hnext => ?_
  split at hnext
  · exact absurd hnext (fatal_ne_next _ _ _)
  · exact storeResult_stores hnext

theorem incWord_stores (h : incWord a s = .next t) : Stores s t := unaryResult_stores h
theorem decWord_stores (h : decWord a s = .next t) : Stores s t := unaryResult_stores h
theorem notWord_stores (h : notWord a s = .next t) : Stores s t := unaryResult_stores h

theorem cmpWords_stores (h : cmpWords mode a b s = .next t) : Stores s t := compareWords_stores h
theorem cntWords_stores (h : cntWords mode a b s = .next t) : Stores s t := compareWords_stores h
theorem lgeWords_stores (h : lgeWords mode a b s = .next t) : Stores s t := compareWords_stores h
theorem smeWords_stores (h : smeWords mode a b s = .next t) : Stores s t := compareWords_stores h

end

theorem moveWord_stores {src : OperandKind} {dst : TargetKind} {a b : Word}
    (h : moveWord src dst a b s = .next t) : Stores s t :=
  storeWord_stores (targetAddress_eq_next (sourceValue_eq_next h))

theorem pushValue_stores {kind : ValueKind} {a : Word} (h : pushValue kind a s = .next t) : Stores s t :=
  stackPush_stores (operandValue_eq_next h)

theorem popTo_stores {a : Word} (h : popTo a s = .next t) : Stores s t :=
  have ⟨_, hstore⟩ := stackPop_eq_next.1 h
  (popped_stores s).trans (storeWord_stores hstore)

theorem jumpIfZero_stores {kind : ValueKind} {a : Word} (h : jumpIfZero kind a s = .next t) : Stores s t := by
  obtain rfl := Host.Outcome.next.inj (operandValue_eq_next h)
  split
  · exact .setCp .refl _
  · exact .refl

theorem jumpTo_stores {kind : ValueKind} {a : Word} (h : jumpTo kind a s = .next t) : Stores s t := by
  obtain rfl := Host.Outcome.next.inj (operandValue_eq_next h)
  exact .setCp .refl _

/-- A CALL that answers a next state pushed CP and stored its target to CP. -/
theorem callTo_eq_next {kind : ValueKind} {a : Word} (h : callTo kind a s = .next t) :
    ∃ u, stackPush s.cp s = .next u ∧ u.setCp (valueAt kind a s) = t := by
  obtain ⟨u, hpush, hnext⟩ := andThen_eq_next.1 (operandValue_eq_next h)
  exact ⟨u, hpush, Host.Outcome.next.inj hnext⟩

theorem callTo_stores {kind : ValueKind} {a : Word} (h : callTo kind a s = .next t) : Stores s t := by
  obtain ⟨u, hpush, rfl⟩ := callTo_eq_next h
  exact (stackPush_stores hpush).setCp _

theorem returnToCaller_stores (h : returnToCaller s = .next t) : Stores s t := by
  obtain ⟨_, rfl⟩ := returnToCaller_eq_next.1 h
  exact (popped_stores s).setCp _

/-- A delivery is word stores on the state without the record. -/
theorem takeInterrupt_stores {r : Record} {rest : List Record} (h : takeInterrupt r rest s = .next t) :
    Stores (s.withQueue rest) t := by
  obtain ⟨u, hpush, rfl⟩ := takeInterrupt_eq_next.1 h
  exact ((stackPush_stores hpush).put _ _).setCp _

/-- An instruction other than HLT that completes is word stores and nothing else. -/
theorem exec_stores {i : Instr} (hi : i ≠ .hlt) (h : exec i s = .next t) : Stores s t := by
  cases i with
  | addRR | addRI | addRA | addAA | addAR | addIA | addIR | addII | addAI =>
    exact addWords_stores h
  | subRR | subRI | subRA | subAA | subAR | subIA | subIR | subII | subAI =>
    exact subWords_stores h
  | mulRR | mulRI | mulRA | mulAA | mulAR | mulIA | mulIR | mulII | mulAI =>
    exact mulWords_stores h
  | divRR | divRI | divRA | divAA | divAR | divIA | divIR | divII | divAI =>
    exact divWords_stores h
  | incI | incR | incA => exact incWord_stores h
  | decI | decR | decA => exact decWord_stores h
  | andRR | andRI | andRA | andAA | andAR | andIA | andIR | andII | andAI =>
    exact andWords_stores h
  | orRR | orRI | orRA | orAA | orAR | orIA | orIR | orII | orAI =>
    exact orWords_stores h
  | xorRR | xorRI | xorRA | xorAA | xorAR | xorIA | xorIR | xorII | xorAI =>
    exact xorWords_stores h
  | notI | notR | notA => exact notWord_stores h
  | shlRR | shlRI | shlRA | shlAA | shlAR | shlIA | shlIR | shlII | shlAI =>
    exact shlWords_stores h
  | shrRR | shrRI | shrRA | shrAA | shrAR | shrIA | shrIR | shrII | shrAI =>
    exact shrWords_stores h
  | cmpRR | cmpRI | cmpRA | cmpAA | cmpAR | cmpIA | cmpIR | cmpII | cmpAI =>
    exact cmpWords_stores h
  | cntRR | cntRI | cntRA | cntAA | cntAR | cntIA | cntIR | cntII | cntAI =>
    exact cntWords_stores h
  | lgeRR | lgeRI | lgeRA | lgeAA | lgeAR | lgeIA | lgeIR | lgeII | lgeAI =>
    exact lgeWords_stores h
  | smeRR | smeRI | smeRA | smeAA | smeAR | smeIA | smeIR | smeII | smeAI =>
    exact smeWords_stores h
  | movRR => exact moveWord_stores (src := .r) (dst := .r) h
  | movRA => exact moveWord_stores (src := .r) (dst := .a) h
  | movAA => exact moveWord_stores (src := .a) (dst := .a) h
  | movAR => exact moveWord_stores (src := .a) (dst := .r) h
  | movIA => exact moveWord_stores (src := .i) (dst := .a) h
  | movIR => exact moveWord_stores (src := .i) (dst := .r) h
  | pushI => exact pushValue_stores (kind := .i) h
  | pushR => exact pushValue_stores (kind := .r) h
  | popI | popR | popA => exact popTo_stores h
  | jifI => exact jumpIfZero_stores (kind := .i) h
  | jifR => exact jumpIfZero_stores (kind := .r) h
  | jmpI => exact jumpTo_stores (kind := .i) h
  | jmpR => exact jumpTo_stores (kind := .r) h
  | callI => exact callTo_stores (kind := .i) h
  | callR => exact callTo_stores (kind := .r) h
  | ret => exact returnToCaller_stores h
  | hlt => exact absurd rfl hi

theorem exec_hlt_eq_next (h : exec .hlt s = .next t) : s.stopRunning = t := Host.Outcome.next.inj h

end

/-- Settles O37: HLT clears running alone, and every other completed instruction is word stores. -/
theorem completedInstructionKeepsQueueAndLatches : Obligations.CompletedInstructionKeepsQueueAndLatches := by
  intro i s t h
  by_cases hi : i = .hlt
  · subst hi
    obtain rfl := exec_hlt_eq_next h
    exact ⟨⟨rfl, rfl, rfl, rfl, rfl⟩, rfl⟩
  · have hstores := exec_stores hi h
    rw [if_neg hi]
    exact ⟨hstores.keepsOutside, hstores.running⟩

/-! ### The invariant (R35) -/

section
variable {s t : State}

/-- A completed instruction keeps the canonical form. -/
theorem exec_wf {i : Instr} (h : exec i s = .next t) (hs : s.mem.wf) : t.mem.wf := by
  by_cases hi : i = .hlt
  · subst hi
    obtain rfl := exec_hlt_eq_next h
    exact hs
  · exact (exec_stores hi h).wf hs

/-- A completed instruction keeps the status; HLT leaves it to the end of the cycle (R118). -/
theorem exec_status {i : Instr} (h : exec i s = .next t) : t.status = s.status :=
  have ⟨⟨_, hstatus, _⟩, _⟩ := completedInstructionKeepsQueueAndLatches i s t h
  hstatus

/-- The delivery step keeps the canonical form and the status. -/
theorem updateInterrupts_keeps (h : updateInterrupts s = .next t) (hs : s.mem.wf) :
    t.mem.wf ∧ t.status = s.status := by
  obtain ⟨_, ⟨_, rfl⟩ | ⟨r, rest, _, htake⟩⟩ := updateInterrupts_eq_next.1 h
  · exact ⟨hs, rfl⟩
  · have hstores := takeInterrupt_stores htake
    exact ⟨hstores.wf hs, hstores.status⟩

/-- Settling the status of a running machine makes it agree with `running` (R118). -/
theorem settleStatus_inv (hs : s.mem.wf) (hrun : s.status = .running) : s.settleStatus.Inv := by
  unfold State.settleStatus
  cases hr : s.running with
  | true => exact ⟨hs, fun _ => hrun, fun _ => hr⟩
  | false => exact ⟨hs, by simp [State.statusAgrees]⟩

/-- The end of a cycle establishes the invariant. -/
theorem endCycle_inv (h : endCycle s = .next t) (hs : s.mem.wf) (hrun : s.status = .running) : t.Inv := by
  obtain ⟨u, hupdate, rfl⟩ := endCycle_eq_next.1 h
  obtain ⟨hwf, hstatus⟩ := updateInterrupts_keeps hupdate (by simpa using hs)
  exact settleStatus_inv hwf (by simpa [hrun] using hstatus)

/-- A cycle of a running machine establishes the invariant, whatever its fetch came to. -/
theorem cycle_inv (h : cycle s = .next t) (hs : s.mem.wf) (hrun : s.status = .running) : t.Inv := by
  have hearly : s.arriveEarly.mem.wf := by simpa using hs
  have hstatus : s.arriveEarly.status = .running := by simpa using hrun
  unfold cycle at h
  obtain ⟨i, u, hfetch, hkeeps⟩ | ⟨u, hfetch, hkeeps⟩ | ⟨header, u, hfetch, _⟩ := fetchInstr_cases s.arriveEarly
  case inl =>
    rw [hfetch] at h
    obtain ⟨v, hexec, hend⟩ := andThen_eq_next.1 h
    exact endCycle_inv hend (exec_wf hexec (hkeeps.wf hearly))
      ((exec_status hexec).trans (hkeeps.status.trans hstatus))
  case inr.inl =>
    rw [hfetch] at h
    exact endCycle_inv h (hkeeps.wf hearly) (hkeeps.status.trans hstatus)
  case inr.inr =>
    rw [hfetch] at h
    exact absurd h (fatal_ne_next _ _ _)

end

/-- Settles O60: a step that answers a next state is a cycle of a running machine. -/
theorem stepKeepsTheInvariant : Obligations.StepKeepsTheInvariant := by
  intro s t ⟨hwf, _⟩ h
  obtain ⟨hrun, hcycle⟩ := step_eq_next.1 h
  exact cycle_inv hcycle hwf hrun

/-- Settles O59: boot's memory lists nothing, and the machine starts running. -/
theorem resetKeepsTheInvariant : Obligations.ResetKeepsTheInvariant :=
  ⟨Memory.atReset_wf, fun _ => State.reset_status, fun _ => State.reset_running⟩

end Sys2Proof.Machine
end

section
/-! The state family: the range of SP (10_state.md R37). -/

namespace Sys2Proof.Machine

section
variable {s t : State}

/-- A store that covers neither byte of SP leaves SP. -/
theorem State.sp_putWord_of_disjoint (s : State) {a : Word} (v : Word) (h : a.toNat = 0 ∨ 4 ≤ a.toNat) :
    (s.putWord a v).sp = s.sp := by
  have hcell : spCell.toNat = 2 := rfl
  exact s.word_putWord_disjoint v (by omega)

@[simp] theorem State.sp_setSp (s : State) (v : Word) : (s.setSp v).sp = v :=
  s.word_putWord_self (by decide) v

@[simp] theorem State.sp_setCp (s : State) (v : Word) : (s.setCp v).sp = s.sp :=
  s.sp_putWord_of_disjoint v (.inl rfl)

/-- The range speaks of SP alone. -/
theorem State.stackInRange_congr (h : t.sp = s.sp) (hs : s.stackInRange) : t.stackInRange := by
  rwa [State.stackInRange, h]

theorem State.stackInRange_setCp (hs : s.stackInRange) (v : Word) : (s.setCp v).stackInRange :=
  stackInRange_congr (s.sp_setCp v) hs

/-- A push that has room leaves SP two higher, below the limit of R113. -/
theorem stackPush_stackInRange {v : Word} (hs : s.stackInRange) (h : stackPush v s = .next t) : t.stackInRange := by
  obtain ⟨hlow, hhigh, heven⟩ := hs
  obtain ⟨hroom, rfl⟩ := stackPush_eq_next.1 h
  have hlimit : stackLimit = 0x01FD := rfl
  have htop : (BitVec.ofNat 16 (s.sp.toNat + 2)).toNat = s.sp.toNat + 2 :=
    Nat.mod_eq_of_lt (by omega)
  rw [State.stackInRange, State.sp_putWord_of_disjoint _ _ (by omega), State.sp_setSp, htop]
  omega

/-- A pop lowers SP only above STACK_BASE (R114), and its cleared cell is no register. -/
theorem popped_stackInRange (hs : s.stackInRange) : s.popped.stackInRange := by
  obtain ⟨hlow, hhigh, heven⟩ := hs
  unfold State.popped
  split
  case isTrue habove =>
    have hbase : 0x0100 < s.sp.toNat := habove
    have hlowered : (s.sp - 2).toNat = s.sp.toNat - 2 :=
      BitVec.toNat_sub_of_le (BitVec.le_def.2 (show 2 ≤ s.sp.toNat by omega))
    rw [State.stackInRange, State.sp_setSp, hlowered]
    omega
  case isFalse =>
    exact State.stackInRange_congr (s.sp_putWord_of_disjoint _ (by omega)) ⟨hlow, hhigh, heven⟩

theorem pushValue_stackInRange {kind : ValueKind} {a : Word} (hs : s.stackInRange)
    (h : pushValue kind a s = .next t) : t.stackInRange :=
  stackPush_stackInRange hs (operandValue_eq_next h)

theorem callTo_stackInRange {kind : ValueKind} {a : Word} (hs : s.stackInRange)
    (h : callTo kind a s = .next t) : t.stackInRange := by
  obtain ⟨u, hpush, rfl⟩ := callTo_eq_next h
  exact State.stackInRange_setCp (stackPush_stackInRange hs hpush) _

theorem returnToCaller_stackInRange (hs : s.stackInRange) (h : returnToCaller s = .next t) : t.stackInRange := by
  obtain ⟨_, rfl⟩ := returnToCaller_eq_next.1 h
  exact State.stackInRange_setCp (popped_stackInRange hs) _

/-- Past its push a delivery stores only to INTERRUPT and CP. -/
theorem takeInterrupt_stackInRange {r : Record} {rest : List Record} (hs : s.stackInRange)
    (h : takeInterrupt r rest s = .next t) : t.stackInRange := by
  obtain ⟨u, hpush, rfl⟩ := takeInterrupt_eq_next.1 h
  have hu : u.stackInRange := stackPush_stackInRange (s := s.withQueue rest) hs hpush
  exact State.stackInRange_setCp (State.stackInRange_congr (u.sp_putWord_of_disjoint _ (.inr (by decide))) hu) _

end

/-- Settles O43: PUSH and CALL push, RET pops, and a delivery pushes. -/
theorem stackStaysInRange : Obligations.StackStaysInRange := by
  intro a r rest s t hs
  refine ⟨fun i hi h => ?_, takeInterrupt_stackInRange hs⟩
  simp only [List.mem_cons, List.not_mem_nil, or_false] at hi
  obtain rfl | rfl | rfl | rfl | rfl := hi
  · exact pushValue_stackInRange (kind := .i) hs h
  · exact pushValue_stackInRange (kind := .r) hs h
  · exact callTo_stackInRange (kind := .i) hs h
  · exact callTo_stackInRange (kind := .r) hs h
  · exact returnToCaller_stackInRange hs h

end Sys2Proof.Machine
end

section
/-! The memory family: word access at its limit, and what a word store and the image leave behind (20_memory.md R50 to
R55, R66; 70_reset_and_hazards.md R211). -/

namespace Sys2Proof.Machine

open Claims

/-! ### The last address, and the bytes of a word -/

/-- The one address whose word runs past the array (R50). -/
theorem toNat_succ_gt_iff {a : Word} : a.toNat + 1 > 0xFFFF ↔ a = 0xFFFF := by
  rw [← BitVec.toNat_inj]
  have hlt := a.isLt
  have htop : (0xFFFF : Word).toNat = 0xFFFF := rfl
  omega

theorem toNat_succ_le_iff {a : Word} : a.toNat + 1 ≤ 0xFFFF ↔ a ≠ 0xFFFF :=
  Nat.not_lt.symm.trans (not_congr toNat_succ_gt_iff)

/-- The address one above, where there is one: no wrap (R50). -/
theorem toNat_add_one {a : Word} (h : a ≠ 0xFFFF) : (a + 1).toNat = a.toNat + 1 :=
  BitVec.toNat_add_of_lt (Nat.lt_succ_of_le (toNat_succ_le_iff.2 h))

theorem toNat_eq_high_low (w : Word) : w.toNat = (highByte w).toNat * 256 + (lowByte w).toNat := by
  rw [← toNat_joinBytes, joinBytes_high_low]

theorem toNat_highByte (w : Word) : (highByte w).toNat = w.toNat / 256 := by
  have hlow := (lowByte w).isLt
  have hw := toNat_eq_high_low w
  omega

theorem toNat_lowByte (w : Word) : (lowByte w).toNat = w.toNat % 256 := by
  have hlow := (lowByte w).isLt
  have hw := toNat_eq_high_low w
  omega

/-! ### A word store, byte by byte -/

theorem State.word_eq_joinBytes (s : State) (a : Word) :
    s.word a = joinBytes (s.byte a.toNat) (s.byte (a.toNat + 1)) := rfl

theorem State.byte_putWord_high (s : State) (a v : Word) : (s.putWord a v).byte a.toNat = highByte v :=
  Memory.byteAt_setWord_high _ _ (inRange_toNat a)

theorem State.byte_putWord_low (s : State) {a : Word} (v : Word) (h : a ≠ 0xFFFF) :
    (s.putWord a v).byte (a.toNat + 1) = lowByte v :=
  Memory.byteAt_setWord_low _ _ (wordFits_lt (wordFits_iff.2 h))

theorem State.putWord_keepsBytesBut (s : State) (a v : Word) : keepsBytesBut (bytesOf a) s (s.putWord a v) := by
  intro x hx
  simp only [bytesOf, List.mem_cons, List.not_mem_nil, or_false, not_or] at hx
  obtain ⟨hhigh, hlow⟩ := hx
  exact s.byte_putWord_ne v hhigh hlow

/-- Settles O6: the bytes at a and a + 1 join to the word that goes on. -/
theorem wordReadIsBigEndian : Obligations.WordReadIsBigEndian := by
  intro a s k
  refine ⟨fun h => ?_, fun h => ⟨s.word a, ?_, withWord_of_fits (toNat_succ_le_iff.1 h) s k⟩⟩
  · obtain rfl := toNat_succ_gt_iff.1 h
    exact withWord_top s k
  · rw [s.word_eq_joinBytes, toNat_joinBytes]

/-- Settles O7: where the word fits the store is `putWord`, whose two bytes and frame are known. -/
theorem wordWriteStoresTwoBytes : Obligations.WordWriteStoresTwoBytes := by
  intro a v s
  refine ⟨fun h => ?_, fun h => ?_⟩
  · obtain rfl := toNat_succ_gt_iff.1 h
    exact storeWord_top v s
  · have hfits := toNat_succ_le_iff.1 h
    have hstores : Stores s (s.putWord a v) := .put .refl a v
    refine ⟨s.putWord a v, storeWord_of_fits hfits v s, ?_, ?_, s.putWord_keepsBytesBut a v, hstores.keepsOutside,
      hstores.running⟩
    · rw [s.byte_putWord_high, toNat_highByte]
    · rw [s.byte_putWord_low v hfits, toNat_lowByte]

/-- Settles O8: the second store covers byte a + 1 and leaves byte a. -/
theorem overlappingWordWrites : Obligations.OverlappingWordWrites := by
  intro a v w s ha t
  have hnext : (a + 1).toNat = a.toNat + 1 := toNat_add_one (toNat_succ_le_iff.1 (by omega))
  have hfits : a + 1 ≠ 0xFFFF := toNat_succ_le_iff.1 (by omega)
  have hfirst : t.byte a.toNat = highByte v := by
    rw [State.byte_putWord_ne _ w (by omega) (by omega), s.byte_putWord_high]
  have hshared : t.byte (a.toNat + 1) = highByte w := by
    rw [← hnext, State.byte_putWord_high]
  have hlast : t.byte (a.toNat + 2) = lowByte w := by
    rw [← State.byte_putWord_low (s.putWord a v) w hfits, hnext]
  refine ⟨hfirst, hshared, hlast, ?_, State.word_putWord_self _ hfits w, fun x hx => ?_⟩
  · rw [t.word_eq_joinBytes, hfirst, hshared]
  · simp only [List.mem_cons, List.not_mem_nil, or_false, not_or] at hx
    obtain ⟨h0, h1, h2⟩ := hx
    rw [State.byte_putWord_ne _ w (by omega) (by omega), s.byte_putWord_ne v h0 h1]

end Sys2Proof.Machine
end

section
/-! The memory family: where an operand access does not fit (20_memory.md R55, 44_move_stack.md R160). -/

namespace Sys2Proof.Machine

open Claims

/-- Every access of a source fits (R55, R76). -/
def sourceFits (kind : OperandKind) (w : Word) (s : State) : Prop :=
  match kind with
  | .i => True
  | .r => w ≠ 0xFFFF
  | .a => w ≠ 0xFFFF ∧ s.word w ≠ 0xFFFF

/-- Every access of a target fits, that of the store at its address included (R55, R76). -/
def targetFits (kind : TargetKind) (w : Word) (s : State) : Prop :=
  match kind with
  | .r => w ≠ 0xFFFF
  | .a => w ≠ 0xFFFF ∧ s.word w ≠ 0xFFFF

section
variable {s : State} {k : Word → Out}

/-- A word read ends out of range when it does not fit, or when what follows it ends so. -/
theorem withWord_eq_outOfRange {a : Word} (h : a ≠ 0xFFFF → k (s.word a) = outOfRange s) :
    withWord a s k = outOfRange s := by
  by_cases ha : a = 0xFFFF
  · rw [ha]
    exact withWord_top s k
  · rw [withWord_of_fits ha, h ha]

theorem storeWord_eq_outOfRange {a : Word} (h : a = 0xFFFF) (v : Word) (s : State) : storeWord a v s = outOfRange s := by
  rw [h]
  exact storeWord_top v s

/-- A source ends out of range when an access of its own does not fit, or when what follows it ends so. -/
theorem sourceValue_eq_outOfRange {kind : OperandKind} {w : Word}
    (h : sourceFits kind w s → k (sourceAt kind w s) = outOfRange s) : sourceValue kind w s k = outOfRange s := by
  cases kind with
  | i => exact h trivial
  | r => exact withWord_eq_outOfRange h
  | a =>
    show withWord w s (fun p => withWord p s k) = outOfRange s
    exact withWord_eq_outOfRange fun hw => withWord_eq_outOfRange fun hp => h ⟨hw, hp⟩

/-- A store at a target ends out of range when an access of the target does not fit. -/
theorem storeAtTarget_eq_outOfRange {kind : TargetKind} {w : Word} (h : ¬ targetFits kind w s) (v : Word) :
    targetAddress kind w s (fun t => storeWord t v s) = outOfRange s := by
  cases kind with
  | r => exact storeWord_eq_outOfRange (not_not.1 h) v s
  | a =>
    show withWord w s (fun t => storeWord t v s) = outOfRange s
    exact withWord_eq_outOfRange fun hw => storeWord_eq_outOfRange (by_contra fun hp => h ⟨hw, hp⟩) v s

/-- A move ends out of range, with nothing written, when an access of its source or of its target does not fit. -/
theorem moveWord_eq_outOfRange {src : OperandKind} {dst : TargetKind} {a b : Word}
    (h : ¬ (sourceFits src a s ∧ targetFits dst b s)) : moveWord src dst a b s = outOfRange s :=
  sourceValue_eq_outOfRange fun hs => storeAtTarget_eq_outOfRange (fun ht => h ⟨hs, ht⟩) _

end

/-- Settles O22: in each mode an address of 0xFFFF is an access of the source or of the target that does not fit. -/
theorem movOutOfRangeIsFatal : Obligations.MovOutOfRangeIsFatal := by
  intro a b s
  refine ⟨fun h => moveWord_eq_outOfRange (src := .i) (dst := .r) ?_,
    fun h => moveWord_eq_outOfRange (src := .i) (dst := .a) ?_,
    fun h => moveWord_eq_outOfRange (src := .r) (dst := .r) ?_,
    fun h => moveWord_eq_outOfRange (src := .r) (dst := .a) ?_,
    fun h => moveWord_eq_outOfRange (src := .a) (dst := .r) ?_,
    fun h => moveWord_eq_outOfRange (src := .a) (dst := .a) ?_⟩
  all_goals
    simp only [sourceFits, targetFits]
    tauto

end Sys2Proof.Machine
end

section
/-! The memory family: the image in memory (20_memory.md R52, 70_reset_and_hazards.md R211). -/

namespace Sys2Proof.Machine

open Claims

/-- Each byte of a stored sequence stands at its place. -/
theorem Memory.byteAt_setBytes_inside (m : Memory) {a k : Nat} {vs : List Byte} (hfits : a + vs.length ≤ memSize)
    (hk : k < vs.length) : (m.setBytes a vs).byteAt (a + k) = vs[k] := by
  induction vs generalizing m a k with
  | nil => cases hk
  | cons v vs ih =>
    simp only [List.length_cons] at hfits hk
    cases k with
    | zero =>
      rw [Memory.setBytes, Memory.byteAt_setBytes_outside _ _ (.inl (by omega))]
      exact m.byteAt_setByte_self v (show a < memSize by omega)
    | succ k =>
      have hplace : a + (k + 1) = a + 1 + k := by omega
      simpa only [Memory.setBytes, hplace, List.getElem_cons_succ] using
        ih (m.setByte a v) (a := a + 1) (by omega) (Nat.lt_of_succ_lt_succ hk)

/-- An image fits from CODE_BASE on exactly up to 0xE000 bytes (D34). -/
theorem image_fits_iff (image : List Byte) : codeBase + image.length ≤ memSize ↔ image.length ≤ 0xE000 := by
  simp only [codeBase, memSize]
  omega

theorem boot_of_fits {image : List Byte} (h : image.length ≤ 0xE000) :
    State.boot image = .ok { State.reset with mem := State.reset.mem.setBytes codeBase image } :=
  if_pos ((image_fits_iff image).2 h)

theorem boot_of_too_long {image : List Byte} (h : 0xE000 < image.length) : State.boot image = .error memSize :=
  if_neg fun hfits => Nat.not_le.2 h ((image_fits_iff image).1 hfits)

/-- Settles O57: boot changes memory alone, and there stores the image from CODE_BASE on. -/
theorem imageIsLoadedAtCodeBase : Obligations.ImageIsLoadedAtCodeBase := by
  intro image
  refine ⟨fun h => ⟨_, boot_of_fits h, fun k hk => ?_, fun x hx => ?_, ⟨rfl, rfl, rfl, rfl, rfl⟩, State.reset_running⟩,
    boot_of_too_long⟩
  · exact Memory.byteAt_setBytes_inside _ ((image_fits_iff image).2 h) hk
  · exact Memory.byteAt_setBytes_outside _ image hx

end Sys2Proof.Machine
end

section
/-! The encoding family: the tables of modes and opcodes, read in both directions (30_encoding.md R72, R73, R79, R80). -/

namespace Sys2Proof

@[simp] theorem Mode.ofByte_toByte (m : Mode) : Mode.ofByte m.toByte = some m := by
  cases m <;> rfl

theorem Mode.toByte_of_ofByte {b : Byte} {m : Mode} (h : Mode.ofByte b = some m) : m.toByte = b := by
  unfold Mode.ofByte at h
  split at h <;> cases h <;> exact BitVec.eq_of_toNat_eq (Eq.symm ‹_›)

theorem Mode.ofByte_eq_none {b : Byte} : Mode.ofByte b = none ↔ 0x0C < b := by
  unfold Mode.ofByte
  split <;> simp only [reduceCtorEq, false_iff, true_iff, imp_false] at * <;> bv_omega

theorem Mode.exists_ofByte {b : Byte} (h : b ≤ 0x0C) : ∃ m, Mode.ofByte b = some m :=
  Option.ne_none_iff_exists'.1 fun hnone => BitVec.not_lt.2 h (Mode.ofByte_eq_none.1 hnone)

@[simp] theorem Opcode.ofByte_toByte (op : Opcode) : Opcode.ofByte op.toByte = some op := by
  cases op <;> rfl

theorem Opcode.toByte_of_ofByte {b : Byte} {op : Opcode} (h : Opcode.ofByte b = some op) : op.toByte = b := by
  unfold Opcode.ofByte at h
  split at h <;> cases h <;> exact BitVec.eq_of_toNat_eq (Eq.symm ‹_›)

theorem Opcode.ofByte_eq_none {b : Byte} : Opcode.ofByte b = none ↔ b = 0x00 ∨ 0x18 < b := by
  unfold Opcode.ofByte
  split <;> simp only [reduceCtorEq, false_iff, true_iff, imp_false] at * <;> bv_omega

theorem Opcode.exists_ofByte {b : Byte} (h : ¬ (b = 0x00 ∨ 0x18 < b)) : ∃ op, Opcode.ofByte b = some op :=
  Option.ne_none_iff_exists'.1 (mt Opcode.ofByte_eq_none.1 h)

theorem Mode.operandCount_le_two (m : Mode) : m.operandCount ≤ 2 := by
  cases m <;> decide

end Sys2Proof
end

section
/-! The encoding family: which (opcode, mode) pairs assemble, and to what (30_encoding.md R75, R77, R78, R81). -/

namespace Sys2Proof

/-- What R78 says of a pair and of what it assembles to with two operand words: an admitted pair gives the instruction of
that row, with as many of the words as its mode calls for; another pair gives none. -/
def IsRow (op : Opcode) (m : Mode) (a b : Word) : Option Instr → Prop
  | some i => m.toByte ∈ admittedModes op.toByte ∧ i.fields = (op, m, [a, b].take m.operandCount)
  | none => m.toByte ∉ admittedModes op.toByte

/-- The table of R78, shape by shape: the pairs that assemble are the admitted ones. -/
theorem assemble_isRow (op : Opcode) (m : Mode) (a b : Word) : IsRow op m a b (assemble op m a b) := by
  cases op with
  | add | sub | mul | div | and | or | xor | shl | shr | cmp | cnt | lge | sme =>
    cases m with
    | rr | ri | ra | aa | ar | ia | ir | ii | ai => exact ⟨by decide, rfl⟩
    | noOperand | i | r | a => exact of_decide_eq_false rfl
  | inc | dec | not | pop =>
    cases m with
    | i | r | a => exact ⟨by decide, rfl⟩
    | noOperand | rr | ri | ra | aa | ar | ia | ir | ii | ai => exact of_decide_eq_false rfl
  | mov =>
    cases m with
    | rr | ra | aa | ar | ia | ir => exact ⟨by decide, rfl⟩
    | noOperand | ri | i | r | a | ii | ai => exact of_decide_eq_false rfl
  | push | jif | jmp | call =>
    cases m with
    | i | r => exact ⟨by decide, rfl⟩
    | noOperand | rr | ri | ra | aa | ar | ia | ir | a | ii | ai => exact of_decide_eq_false rfl
  | ret | hlt =>
    cases m with
    | noOperand => exact ⟨by decide, rfl⟩
    | rr | ri | ra | aa | ar | ia | ir | i | r | a | ii | ai => exact of_decide_eq_false rfl

/-- Every instruction is the one its own row assembles to. -/
theorem assemble_fields (i : Instr) :
    assemble i.fields.1 i.fields.2.1 (i.fields.2.2.getD 0 0) (i.fields.2.2.getD 1 0) = some i := by
  cases i <;> rfl

section
variable {op : Opcode} {m : Mode} {a b : Word}

theorem fields_of_assemble {i : Instr} (h : assemble op m a b = some i) :
    i.fields = (op, m, [a, b].take m.operandCount) := by
  have hrow := assemble_isRow op m a b
  rw [h] at hrow
  exact hrow.2

theorem assemble_eq_none_iff : assemble op m a b = none ↔ m.toByte ∉ admittedModes op.toByte := by
  have hrow := assemble_isRow op m a b
  cases h : assemble op m a b with
  | none => simpa [h, IsRow] using hrow
  | some i =>
    rw [h] at hrow
    simp [hrow.1]

end

/-- An instruction has as many operand words as its mode calls for (R77). -/
theorem Instr.length_operands (i : Instr) : i.fields.2.2.length = i.fields.2.1.operandCount := by
  have hwords := congrArg (·.2.2.length) (fields_of_assemble (assemble_fields i))
  simpa [Mode.operandCount_le_two] using hwords

/-- An admitted pair has an assigned mode (R78, R80). -/
theorem mode_le_of_mem_admittedModes {hi lo : Byte} (h : hi ∈ admittedModes lo) : hi ≤ 0x0C := by
  unfold admittedModes twoOperandModes at h
  split_ifs at h <;> simp only [List.mem_cons, List.not_mem_nil, or_false] at h <;> bv_omega

/-- An admitted pair has an assigned opcode (R78, R79). -/
theorem opcode_assigned_of_mem_admittedModes {hi lo : Byte} (h : hi ∈ admittedModes lo) :
    ¬ (lo = 0x00 ∨ 0x18 < lo) := by
  unfold admittedModes at h
  split_ifs at h <;> simp only [List.mem_cons, List.not_mem_nil, or_false] at * <;> bv_omega

end Sys2Proof
end

section
/-! The encoding family: the checks on a header (30_encoding.md R78 to R82, 40_engine.md R102, R106). -/

namespace Sys2Proof

open Machine (highByte lowByte joinBytes)

section
variable {header : Word} {m : Mode} {op : Opcode}

theorem decodeFields_of_mode_unassigned (h : Mode.ofByte (highByte header) = none) (a b : Word) :
    decodeFields header a b = .error (.unassignedMode header) := by
  simp only [decodeFields, h]

theorem decodeFields_of_opcode_unassigned (hm : Mode.ofByte (highByte header) = some m)
    (h : Opcode.ofByte (lowByte header) = none) (a b : Word) :
    decodeFields header a b = .error (.unassignedOpcode header) := by
  simp only [decodeFields, hm, h]

/-- Past the checks of the two bytes the pair decides. -/
theorem decodeFields_of_assigned (hm : Mode.ofByte (highByte header) = some m)
    (hop : Opcode.ofByte (lowByte header) = some op) (a b : Word) :
    decodeFields header a b = (assemble op m a b).elim (.error (.unadmittedPair header)) .ok := by
  simp only [decodeFields, hm, hop]
  cases assemble op m a b <;> rfl

/-- A header that decodes passed every check, and its pair assembled to the instruction. -/
theorem assemble_of_decodeFields {a b : Word} {i : Instr} (h : decodeFields header a b = .ok i) :
    ∃ m op, Mode.ofByte (highByte header) = some m ∧ Opcode.ofByte (lowByte header) = some op ∧
      assemble op m a b = some i := by
  cases hm : Mode.ofByte (highByte header) with
  | none => simp [decodeFields_of_mode_unassigned hm] at h
  | some m =>
    cases hop : Opcode.ofByte (lowByte header) with
    | none => simp [decodeFields_of_opcode_unassigned hm hop] at h
    | some op =>
      rw [decodeFields_of_assigned hm hop] at h
      cases hi : assemble op m a b with
      | none => simp [hi] at h
      | some j => simpa [hi] using h

end

/-- The header of an instruction, with its operand words, decodes to it. -/
theorem decodeFields_header (i : Instr) :
    decodeFields i.header (i.raw.operands.getD 0 0) (i.raw.operands.getD 1 0) = .ok i := by
  have hm : Mode.ofByte (highByte i.header) = some i.fields.2.1 := by simp [Instr.header, Instr.raw]
  have hop : Opcode.ofByte (lowByte i.header) = some i.fields.1 := by simp [Instr.header, Instr.raw]
  rw [decodeFields_of_assigned hm hop, Instr.raw, assemble_fields]
  rfl

/-- What decodes has the header decoded, and as many of the operand words as its mode calls for. -/
theorem header_operands_of_decodeFields {header a b : Word} {i : Instr} (h : decodeFields header a b = .ok i) :
    i.header = header ∧ i.raw.operands = [a, b].take i.fields.2.1.operandCount := by
  obtain ⟨m, op, hm, hop, hi⟩ := assemble_of_decodeFields h
  simp [Instr.header, Instr.raw, fields_of_assemble hi, Mode.toByte_of_ofByte hm, Opcode.toByte_of_ofByte hop]

/-- Settles O5: the mode check, the opcode check and the pair check fail in that order, and past all three the pair
assembles to an instruction with its own header. -/
theorem headersOutsideTheAdmittedPairsAreRefused : Obligations.HeadersOutsideTheAdmittedPairsAreRefused := by
  intro header a b
  refine ⟨fun hmode => ?_, fun hmode hopcode => ?_, fun hmode hne hle hpair => ?_, fun hpair => ?_⟩
  · exact decodeFields_of_mode_unassigned (Mode.ofByte_eq_none.2 hmode) a b
  · obtain ⟨m, hm⟩ := Mode.exists_ofByte hmode
    exact decodeFields_of_opcode_unassigned hm (Opcode.ofByte_eq_none.2 hopcode) a b
  · obtain ⟨m, hm⟩ := Mode.exists_ofByte hmode
    obtain ⟨op, hop⟩ := Opcode.exists_ofByte (not_or.2 ⟨hne, BitVec.not_lt.2 hle⟩)
    rw [← Mode.toByte_of_ofByte hm, ← Opcode.toByte_of_ofByte hop] at hpair
    rw [decodeFields_of_assigned hm hop, assemble_eq_none_iff.2 hpair]
    rfl
  · obtain ⟨m, hm⟩ := Mode.exists_ofByte (mode_le_of_mem_admittedModes hpair)
    obtain ⟨op, hop⟩ := Opcode.exists_ofByte (opcode_assigned_of_mem_admittedModes hpair)
    rw [← Mode.toByte_of_ofByte hm, ← Opcode.toByte_of_ofByte hop] at hpair
    obtain ⟨i, hi⟩ := Option.ne_none_iff_exists'.1 fun hnone => assemble_eq_none_iff (a := a) (b := b).1 hnone hpair
    have hdecode : decodeFields header a b = .ok i := by
      rw [decodeFields_of_assigned hm hop, hi]
      rfl
    exact ⟨i, hdecode, (header_operands_of_decodeFields hdecode).1⟩

end Sys2Proof
end

section
/-! The encoding family: the decoder and the encoder are inverse to each other (30_encoding.md R70, R71, R74, R75;
20_memory.md R54). -/

namespace Sys2Proof

open Machine (highByte lowByte joinBytes wordBytes highByte_joinBytes lowByte_joinBytes joinBytes_high_low
  joinBytes_inj)

theorem length_wordBytes (ws : List Word) : (wordBytes ws).length = 2 * ws.length := by
  induction ws with
  | nil => rfl
  | cons w ws ih =>
    simp only [wordBytes, List.length_cons, ih]
    omega

theorem joinBytes_eq_iff {hi lo : Byte} {w : Word} : joinBytes hi lo = w ↔ hi = highByte w ∧ lo = lowByte w := by
  refine ⟨?_, ?_⟩
  · rintro rfl
    simp
  · rintro ⟨rfl, rfl⟩
    simp

theorem takeWords_succ_eq_some_iff {n : Nat} {hi lo : Byte} {rest after : List Byte} {w : Word} {ws : List Word} :
    takeWords (n + 1) (hi :: lo :: rest) = some (w :: ws, after) ↔
      joinBytes hi lo = w ∧ takeWords n rest = some (ws, after) := by
  simp only [takeWords, Option.map_eq_some_iff, Prod.exists, Prod.mk.injEq, List.cons.injEq]
  grind

/-- Taking n words is the inverse of writing n words out, whatever follows. -/
theorem takeWords_eq_some_iff {n : Nat} {bytes after : List Byte} {ws : List Word} :
    takeWords n bytes = some (ws, after) ↔ ws.length = n ∧ bytes = wordBytes ws ++ after := by
  induction n generalizing bytes ws with
  | zero =>
    cases ws with
    | nil => simp [takeWords, wordBytes]
    | cons w ws => simp [takeWords]
  | succ n ih =>
    cases ws with
    | nil => rcases bytes with _ | ⟨hi, _ | ⟨lo, rest⟩⟩ <;> simp [takeWords]
    | cons w ws =>
      rcases bytes with _ | ⟨hi, _ | ⟨lo, rest⟩⟩
      · simp [takeWords, wordBytes]
      · simp [takeWords, wordBytes]
      · rw [takeWords_succ_eq_some_iff, joinBytes_eq_iff, ih]
        simp only [wordBytes, List.length_cons, List.cons_append, List.cons.injEq, Nat.add_right_cancel_iff]
        tauto

/-- Up to two words are what is kept of the first two, read with a default. -/
theorem take_getD_of_length_le_two {ws : List Word} {n : Nat} (hlen : ws.length = n) (hn : n ≤ 2) :
    [ws.getD 0 0, ws.getD 1 0].take n = ws := by
  subst hlen
  match ws with
  | [] | [_] | [_, _] => rfl
  | _ :: _ :: _ :: _ => simp at hn

theorem encodeBytes_eq (i : Instr) :
    encodeBytes i = i.raw.mode :: i.raw.opcode :: wordBytes i.raw.operands := by
  simp [encodeBytes, encode, wordBytes, Instr.header]

/-- The first byte of an encoding names the mode of the instruction. -/
theorem Instr.ofByte_mode (i : Instr) : Mode.ofByte i.raw.mode = some i.fields.2.1 := Mode.ofByte_toByte _

theorem Instr.mode_eq_of_ofByte {i : Instr} {m : Mode} (h : Mode.ofByte i.raw.mode = some m) : i.fields.2.1 = m :=
  Option.some.inj (i.ofByte_mode.symm.trans h)

theorem length_encodeBytes (i : Instr) : (encodeBytes i).length = 2 + 2 * i.fields.2.1.operandCount := by
  simp only [encodeBytes_eq, List.length_cons, length_wordBytes, Instr.raw, i.length_operands]
  omega

theorem decode_of_mode_unassigned {hi : Byte} (h : Mode.ofByte hi = none) (lo : Byte) (rest : List Byte) :
    decode (hi :: lo :: rest) = .error (.unassignedMode (joinBytes hi lo)) := by
  simp only [decode, h]

/-- With the operand words of its mode taken, a header decodes as its fields do. -/
theorem decode_of_takeWords {hi lo : Byte} {rest after : List Byte} {m : Mode} {args : List Word}
    (hm : Mode.ofByte hi = some m) (hargs : takeWords m.operandCount rest = some (args, after)) :
    decode (hi :: lo :: rest) =
      (decodeFields (joinBytes hi lo) (args.getD 0 0) (args.getD 1 0)).map fun i => (i, after) := by
  simp only [decode, hm, hargs]

/-- Bytes that decode are two header bytes and the operand words of their mode, whose fields decode. -/
theorem decodeFields_of_decode {bytes after : List Byte} {i : Instr} (h : decode bytes = .ok (i, after)) :
    ∃ hi lo rest m args, bytes = hi :: lo :: rest ∧ Mode.ofByte hi = some m ∧
      takeWords m.operandCount rest = some (args, after) ∧
      decodeFields (joinBytes hi lo) (args.getD 0 0) (args.getD 1 0) = .ok i := by
  rcases bytes with _ | ⟨hi, _ | ⟨lo, rest⟩⟩
  · simp [decode] at h
  · simp [decode] at h
  · cases hm : Mode.ofByte hi with
    | none => simp [decode_of_mode_unassigned hm] at h
    | some m =>
      cases hargs : takeWords m.operandCount rest with
      | none => simp [decode, hm, hargs] at h
      | some p =>
        rw [decode_of_takeWords hm hargs] at h
        cases hfields : decodeFields (joinBytes hi lo) (p.1.getD 0 0) (p.1.getD 1 0) with
        | error e =>
          rw [hfields] at h
          cases h
        | ok j =>
          rw [hfields] at h
          cases h
          exact ⟨hi, lo, rest, m, p.1, rfl, hm, hargs, hfields⟩

theorem decode_encodeBytes_append (i : Instr) (rest : List Byte) : decode (encodeBytes i ++ rest) = .ok (i, rest) := by
  have hargs : takeWords i.fields.2.1.operandCount (wordBytes i.raw.operands ++ rest) = some (i.raw.operands, rest) :=
    takeWords_eq_some_iff.2 ⟨i.length_operands, rfl⟩
  rw [encodeBytes_eq, List.cons_append, List.cons_append, decode_of_takeWords i.ofByte_mode hargs, ← Instr.header,
    decodeFields_header]
  rfl

theorem eq_encodeBytes_append_of_decode {bytes rest : List Byte} {i : Instr} (h : decode bytes = .ok (i, rest)) :
    bytes = encodeBytes i ++ rest := by
  obtain ⟨hi, lo, tail, m, args, rfl, hm, hargs, hfields⟩ := decodeFields_of_decode h
  obtain ⟨hlen, rfl⟩ := takeWords_eq_some_iff.1 hargs
  obtain ⟨hheader, hoperands⟩ := header_operands_of_decodeFields hfields
  obtain ⟨rfl, rfl⟩ := joinBytes_inj hheader
  obtain rfl := Instr.mode_eq_of_ofByte hm
  rw [take_getD_of_length_le_two hlen (Mode.operandCount_le_two _)] at hoperands
  rw [encodeBytes_eq, hoperands]
  rfl

/-- Settles O1: the operand words written out are taken again, and the header's fields decode to their instruction. -/
theorem encodeThenDecodeReturnsInstruction : Obligations.EncodeThenDecodeReturnsInstruction :=
  decode_encodeBytes_append

/-- Settles O2: the header bytes and the operand words that were read are those of the instruction decoded. -/
theorem decodedBytesAreTheEncoding : Obligations.DecodedBytesAreTheEncoding :=
  fun _ _ _ => eq_encodeBytes_append_of_decode

/-- Settles O4: bytes that decode are an encoding and what follows, and an encoding begins with its mode byte. -/
theorem lengthFollowsFromTheModeByte : Obligations.LengthFollowsFromTheModeByte := by
  refine ⟨fun i => ⟨length_encodeBytes i, ?_⟩, fun hi lo rest after i m hm h => ?_, fun hi => decode_of_mode_unassigned⟩
  · have hcount := i.fields.2.1.operandCount_le_two
    have hlength := length_encodeBytes i
    omega
  · have hbytes := eq_encodeBytes_append_of_decode h
    have hlength := congrArg List.length hbytes
    rw [encodeBytes_eq] at hbytes
    obtain rfl : hi = i.raw.mode := List.head_eq_of_cons_eq hbytes
    obtain rfl := Instr.mode_eq_of_ofByte hm
    rw [List.length_append, length_encodeBytes, List.length_cons, List.length_cons] at hlength
    omega

end Sys2Proof
end

section
/-! The engine family: the forms of the ALU instructions and what they store (40_engine.md R107 to R111; 43_compare.md
R150). -/

namespace Sys2Proof.Machine

open Claims

/-! ### The operand contracts, where the accesses fit and where one does not -/

section
variable {a b : Word} {s t : State}

theorem binaryOperands_rr_of_fits (ha : a ≠ 0xFFFF) (hb : b ≠ 0xFFFF) (k : Word → Word → Out) :
    binaryOperands .rr a b s k = k (s.word a) (s.word b) :=
  (withWord_of_fits ha s _).trans (withWord_of_fits hb s _)

theorem binaryOperands_ri_of_fits (ha : a ≠ 0xFFFF) (k : Word → Word → Out) :
    binaryOperands .ri a b s k = k (s.word a) b :=
  withWord_of_fits ha s _

theorem binaryOperands_first_top (m : Mode) (b : Word) (s : State) (k : Word → Word → Out) :
    binaryOperands m 0xFFFF b s k = outOfRange s := withWord_top s _

theorem binaryOperands_second_top (a : Word) (s : State) (k : Word → Word → Out) :
    binaryOperands .rr a 0xFFFF s k = outOfRange s :=
  withWord_eq_outOfRange fun _ => withWord_top s (k (s.word a))

theorem operandValue_r_of_fits (ha : a ≠ 0xFFFF) (k : Word → Out) : operandValue .r a s k = k (s.word a) :=
  withWord_of_fits ha s k

theorem operandValue_r_top (s : State) (k : Word → Out) : operandValue .r 0xFFFF s k = outOfRange s :=
  withWord_top s k

/-! ### The result store -/

/-- The result store is the three word stores of R109 and nothing else. -/
theorem withResult_stores (s : State) (a r zf cf : Word) : Stores s (withResult s a r zf cf) :=
  .put (.put (.put .refl _ _) _ _) _ _

theorem keepsBytesBut_trans {u : State} {xs ys : List Nat} (h : keepsBytesBut xs s t) (k : keepsBytesBut ys t u) :
    keepsBytesBut (xs ++ ys) s u := by
  intro x hx
  obtain ⟨hxs, hys⟩ := not_or.1 (mt List.mem_append.2 hx)
  exact (k x hys).trans (h x hxs)

theorem withResult_keepsBytesBut (s : State) (a r zf cf : Word) :
    keepsBytesBut (bytesOf a ++ [4, 5, 6, 7]) s (withResult s a r zf cf) :=
  have hflags := keepsBytesBut_trans (State.putWord_keepsBytesBut (s.putWord a r) 0x0004 zf)
    (State.putWord_keepsBytesBut _ 0x0006 cf)
  keepsBytesBut_trans (s.putWord_keepsBytesBut a r) hflags

theorem storeResult_eq_withResult {r zf cf : Word} (h : storeResult a r zf cf s = .next t) :
    ∃ r zf cf, withResult s a r zf cf = t :=
  have ⟨_, hstores⟩ := storeResult_eq_next.1 h
  ⟨r, zf, cf, hstores⟩

/-- CARRY_FLAG of a result that is not negative: set where the operation is of carry kind and the result exceeds
a word (R111). -/
theorem carryFlag_natCast (n : Nat) (carryKind : Bool) : carryFlag n carryKind = bit (carryKind && 0xFFFF < n) := by
  have hexceeds : ((n : Int) ≠ ((trunc16 n).toNat : Int)) ↔ 0xFFFF < n := by
    rw [trunc16, BitVec.ofInt_natCast, BitVec.toNat_ofNat]
    omega
  simp only [carryFlag, flagWord, bit, hexceeds]

/-- A result that is not negative, where its address fits: the low word, ZERO_FLAG and CARRY_FLAG (R109 to R111). -/
theorem writeResult_natCast (ha : a ≠ 0xFFFF) (n : Nat) (carryKind : Bool) :
    writeResult a n carryKind s =
      .next (withResult s a (BitVec.ofNat 16 n) (bit (BitVec.ofNat 16 n = 0)) (bit (carryKind && 0xFFFF < n))) := by
  rw [← carryFlag_natCast]
  exact writeResult_eq_next.2 ⟨ha, by rw [trunc16, BitVec.ofInt_natCast]; rfl⟩

end

/-! ### The binary instructions (R107) -/

/-- In mode `m` the instruction is the shared operation `op`. -/
def RunsAs (op : Mode → Word → Word → State → Out) (m : Mode) (form : Word → Word → Instr) : Prop :=
  ∀ a b s, exec (form a b) s = op m a b s

/-! The eight modes whose second operand word is the value itself have one meaning, that of RI. -/

theorem addForms_runAs : ∀ form ∈ addForms, RunsAs addWords .ri form := by
  intro form h
  fin_cases h <;> intro a b s <;> rfl

theorem subForms_runAs : ∀ form ∈ subForms, RunsAs subWords .ri form := by
  intro form h
  fin_cases h <;> intro a b s <;> rfl

theorem mulForms_runAs : ∀ form ∈ mulForms, RunsAs mulWords .ri form := by
  intro form h
  fin_cases h <;> intro a b s <;> rfl

theorem divForms_runAs : ∀ form ∈ divForms, RunsAs divWords .ri form := by
  intro form h
  fin_cases h <;> intro a b s <;> rfl

theorem andForms_runAs : ∀ form ∈ andForms, RunsAs andWords .ri form := by
  intro form h
  fin_cases h <;> intro a b s <;> rfl

theorem orForms_runAs : ∀ form ∈ orForms, RunsAs orWords .ri form := by
  intro form h
  fin_cases h <;> intro a b s <;> rfl

theorem xorForms_runAs : ∀ form ∈ xorForms, RunsAs xorWords .ri form := by
  intro form h
  fin_cases h <;> intro a b s <;> rfl

theorem shlForms_runAs : ∀ form ∈ shlForms, RunsAs shlWords .ri form := by
  intro form h
  fin_cases h <;> intro a b s <;> rfl

theorem shrForms_runAs : ∀ form ∈ shrForms, RunsAs shrWords .ri form := by
  intro form h
  fin_cases h <;> intro a b s <;> rfl

theorem cmpForms_runAs : ∀ form ∈ cmpForms, RunsAs cmpWords .ri form := by
  intro form h
  fin_cases h <;> intro a b s <;> rfl

theorem cntForms_runAs : ∀ form ∈ cntForms, RunsAs cntWords .ri form := by
  intro form h
  fin_cases h <;> intro a b s <;> rfl

theorem lgeForms_runAs : ∀ form ∈ lgeForms, RunsAs lgeWords .ri form := by
  intro form h
  fin_cases h <;> intro a b s <;> rfl

theorem smeForms_runAs : ∀ form ∈ smeForms, RunsAs smeWords .ri form := by
  intro form h
  fin_cases h <;> intro a b s <;> rfl

/-- The operation reads its operands as R107 says, and when it then answers a next state it has done the three stores of
R109 at args[0]. -/
def IsBinaryAlu (op : Mode → Word → Word → State → Out) : Prop :=
  ∀ m a b s, ∃ k : Word → Word → Out, op m a b s = binaryOperands m a b s k ∧
    ∀ v1 v2 t, k v1 v2 = .next t → ∃ r zf cf, withResult s a r zf cf = t

theorem binaryResult_isBinaryAlu (x : Word → Word → Int) (carryKind : Bool) :
    IsBinaryAlu fun m a b s => binaryOperands m a b s fun v1 v2 => writeResult a (x v1 v2) carryKind s :=
  fun _ _ _ _ => ⟨_, rfl, fun _ _ _ => storeResult_eq_withResult⟩

theorem compareWords_isBinaryAlu (rel : Word → Word → Bool) : IsBinaryAlu (compareWords rel) :=
  fun _ _ _ _ => ⟨_, rfl, fun _ _ _ => storeResult_eq_withResult⟩

theorem addWords_isBinaryAlu : IsBinaryAlu addWords := binaryResult_isBinaryAlu _ _
theorem subWords_isBinaryAlu : IsBinaryAlu subWords := binaryResult_isBinaryAlu _ _
theorem mulWords_isBinaryAlu : IsBinaryAlu mulWords := binaryResult_isBinaryAlu _ _
theorem andWords_isBinaryAlu : IsBinaryAlu andWords := binaryResult_isBinaryAlu _ _
theorem orWords_isBinaryAlu : IsBinaryAlu orWords := binaryResult_isBinaryAlu _ _
theorem xorWords_isBinaryAlu : IsBinaryAlu xorWords := binaryResult_isBinaryAlu _ _
theorem shlWords_isBinaryAlu : IsBinaryAlu shlWords := binaryResult_isBinaryAlu _ _
theorem shrWords_isBinaryAlu : IsBinaryAlu shrWords := binaryResult_isBinaryAlu _ _
theorem cmpWords_isBinaryAlu : IsBinaryAlu cmpWords := compareWords_isBinaryAlu _
theorem cntWords_isBinaryAlu : IsBinaryAlu cntWords := compareWords_isBinaryAlu _
theorem lgeWords_isBinaryAlu : IsBinaryAlu lgeWords := compareWords_isBinaryAlu _
theorem smeWords_isBinaryAlu : IsBinaryAlu smeWords := compareWords_isBinaryAlu _

theorem divWords_isBinaryAlu : IsBinaryAlu divWords := by
  refine fun _ _ _ _ => ⟨_, rfl, fun v1 v2 t h => ?_⟩
  split at h
  · exact absurd h (fatal_ne_next _ _ _)
  · exact storeResult_eq_withResult h

theorem exists_op_of_mem_rrForms : ∀ form ∈ rrForms, ∃ op, IsBinaryAlu op ∧ RunsAs op .rr form := by
  intro form h
  fin_cases h
  · exact ⟨addWords, addWords_isBinaryAlu, fun _ _ _ => rfl⟩
  · exact ⟨subWords, subWords_isBinaryAlu, fun _ _ _ => rfl⟩
  · exact ⟨mulWords, mulWords_isBinaryAlu, fun _ _ _ => rfl⟩
  · exact ⟨divWords, divWords_isBinaryAlu, fun _ _ _ => rfl⟩
  · exact ⟨andWords, andWords_isBinaryAlu, fun _ _ _ => rfl⟩
  · exact ⟨orWords, orWords_isBinaryAlu, fun _ _ _ => rfl⟩
  · exact ⟨xorWords, xorWords_isBinaryAlu, fun _ _ _ => rfl⟩
  · exact ⟨shlWords, shlWords_isBinaryAlu, fun _ _ _ => rfl⟩
  · exact ⟨shrWords, shrWords_isBinaryAlu, fun _ _ _ => rfl⟩
  · exact ⟨cmpWords, cmpWords_isBinaryAlu, fun _ _ _ => rfl⟩
  · exact ⟨cntWords, cntWords_isBinaryAlu, fun _ _ _ => rfl⟩
  · exact ⟨lgeWords, lgeWords_isBinaryAlu, fun _ _ _ => rfl⟩
  · exact ⟨smeWords, smeWords_isBinaryAlu, fun _ _ _ => rfl⟩

theorem exists_op_of_mem_valueForms : ∀ form ∈ valueForms, ∃ op, IsBinaryAlu op ∧ RunsAs op .ri form := by
  intro form h
  simp only [valueForms, List.mem_append, or_assoc] at h
  obtain h | h | h | h | h | h | h | h | h | h | h | h | h := h
  · exact ⟨addWords, addWords_isBinaryAlu, addForms_runAs form h⟩
  · exact ⟨subWords, subWords_isBinaryAlu, subForms_runAs form h⟩
  · exact ⟨mulWords, mulWords_isBinaryAlu, mulForms_runAs form h⟩
  · exact ⟨divWords, divWords_isBinaryAlu, divForms_runAs form h⟩
  · exact ⟨andWords, andWords_isBinaryAlu, andForms_runAs form h⟩
  · exact ⟨orWords, orWords_isBinaryAlu, orForms_runAs form h⟩
  · exact ⟨xorWords, xorWords_isBinaryAlu, xorForms_runAs form h⟩
  · exact ⟨shlWords, shlWords_isBinaryAlu, shlForms_runAs form h⟩
  · exact ⟨shrWords, shrWords_isBinaryAlu, shrForms_runAs form h⟩
  · exact ⟨cmpWords, cmpWords_isBinaryAlu, cmpForms_runAs form h⟩
  · exact ⟨cntWords, cntWords_isBinaryAlu, cntForms_runAs form h⟩
  · exact ⟨lgeWords, lgeWords_isBinaryAlu, lgeForms_runAs form h⟩
  · exact ⟨smeWords, smeWords_isBinaryAlu, smeForms_runAs form h⟩

/-! ### The unary instructions (R108) -/

/-- The operation reads its operand as R108 says, and when it then answers a next state it has done the three stores of
R109 at args[0]. -/
def IsUnaryAlu (op : Word → State → Out) : Prop :=
  ∀ a s, ∃ k : Word → Out, op a s = unaryOperand a s k ∧
    ∀ v t, k v = .next t → ∃ r zf cf, withResult s a r zf cf = t

theorem unaryResult_isUnaryAlu (x : Word → Int) (carryKind : Bool) :
    IsUnaryAlu fun a s => unaryOperand a s fun v => writeResult a (x v) carryKind s :=
  fun _ _ => ⟨_, rfl, fun _ _ => storeResult_eq_withResult⟩

theorem exists_op_of_mem_unaryForms :
    ∀ form ∈ unaryForms, ∃ op, IsUnaryAlu op ∧ ∀ a s, exec (form a) s = op a s := by
  have hinc : IsUnaryAlu incWord := unaryResult_isUnaryAlu _ _
  have hdec : IsUnaryAlu decWord := unaryResult_isUnaryAlu _ _
  have hnot : IsUnaryAlu notWord := unaryResult_isUnaryAlu _ _
  simp only [unaryForms, List.mem_cons, List.not_mem_nil, or_false]
  rintro form (rfl | rfl | rfl | rfl | rfl | rfl | rfl | rfl | rfl)
  iterate 3 exact ⟨incWord, hinc, fun _ _ => rfl⟩
  iterate 3 exact ⟨decWord, hdec, fun _ _ => rfl⟩
  iterate 3 exact ⟨notWord, hnot, fun _ _ => rfl⟩

end Sys2Proof.Machine
end

section
/-! The engine family: where an operand access does not fit, and the frame of the ALU instructions (40_engine.md R107 to
R112; 20_memory.md R55, R59). -/

namespace Sys2Proof.Machine

open Claims

/-- Settles O32: each of these instructions resolves its operands before it does anything else. -/
theorem operandAddressOutOfRangeIsFatal : Obligations.OperandAddressOutOfRangeIsFatal := by
  intro a b s
  refine ⟨fun form hform hab => ?_, fun form hform => ?_, fun form hform => ?_⟩
  · obtain ⟨op, hop, hexec⟩ := exists_op_of_mem_rrForms form hform
    obtain ⟨k, hk, _⟩ := hop .rr a b s
    rw [hexec, hk]
    obtain rfl | rfl := hab
    · exact binaryOperands_first_top .rr b s k
    · exact binaryOperands_second_top a s k
  · obtain ⟨op, hop, hexec⟩ := exists_op_of_mem_valueForms form hform
    obtain ⟨k, hk, _⟩ := hop .ri 0xFFFF b s
    rw [hexec, hk]
    exact binaryOperands_first_top .ri b s k
  · obtain hunary | hvalue := List.mem_append.1 hform
    · obtain ⟨op, hop, hexec⟩ := exists_op_of_mem_unaryForms form hunary
      obtain ⟨k, hk, _⟩ := hop 0xFFFF s
      rw [hexec, hk]
      exact withWord_top s k
    · fin_cases hvalue
      · show pushValue .r 0xFFFF s = _
        rw [pushValue, operandValue_r_top]
      · show jumpIfZero .r 0xFFFF s = _
        rw [jumpIfZero, operandValue_r_top]
      · show callTo .r 0xFFFF s = _
        rw [callTo, operandValue_r_top]

/-- All that three stores of R109 at `a` can change. -/
def AluFrame (a : Word) (s t : State) : Prop :=
  keepsBytesBut (bytesOf a ++ [4, 5, 6, 7]) s t ∧ keepsOutside s t ∧ t.running = s.running

theorem withResult_aluFrame (s : State) (a r zf cf : Word) : AluFrame a s (withResult s a r zf cf) :=
  have hstores := withResult_stores s a r zf cf
  ⟨withResult_keepsBytesBut s a r zf cf, hstores.keepsOutside, hstores.running⟩

theorem IsBinaryAlu.aluFrame {op : Mode → Word → Word → State → Out} (hop : IsBinaryAlu op) {m : Mode} {a b : Word}
    {s t : State} (h : op m a b s = .next t) : AluFrame a s t := by
  obtain ⟨k, hk, hresult⟩ := hop m a b s
  obtain ⟨_, _, hnext⟩ := binaryOperands_eq_next (hk.symm.trans h)
  obtain ⟨r, zf, cf, rfl⟩ := hresult _ _ t hnext
  exact withResult_aluFrame s a r zf cf

theorem IsUnaryAlu.aluFrame {op : Word → State → Out} (hop : IsUnaryAlu op) {a : Word} {s t : State}
    (h : op a s = .next t) : AluFrame a s t := by
  obtain ⟨k, hk, hresult⟩ := hop a s
  obtain ⟨_, hnext⟩ := unaryOperand_eq_next.1 (hk.symm.trans h)
  obtain ⟨r, zf, cf, rfl⟩ := hresult _ t hnext
  exact withResult_aluFrame s a r zf cf

/-- Settles O33: the three stores of R109 at args[0] are all that an ALU instruction does. -/
theorem aluFormsFrame : Obligations.AluFormsFrame := by
  intro a b s t
  refine ⟨fun form hform h => ?_, fun form hform h => ?_⟩
  · obtain hrr | hvalue := List.mem_append.1 hform
    · obtain ⟨op, hop, hexec⟩ := exists_op_of_mem_rrForms form hrr
      exact hop.aluFrame ((hexec a b s).symm.trans h)
    · obtain ⟨op, hop, hexec⟩ := exists_op_of_mem_valueForms form hvalue
      exact hop.aluFrame ((hexec a b s).symm.trans h)
  · obtain ⟨op, hop, hexec⟩ := exists_op_of_mem_unaryForms form hform
    exact hop.aluFrame ((hexec a s).symm.trans h)

end Sys2Proof.Machine
end

section
/-! The engine family: the quotient (41_arithmetic.md DIV) and the conditional jump (45_control.md JIF). -/

namespace Sys2Proof.Machine

open Claims

section
variable {a v1 v2 : Word} {s : State}

/-- A quotient is no larger than its dividend, and is 0 exactly below the divisor. -/
theorem writeResult_quotient (ha : a ≠ 0xFFFF) (h : v2 ≠ 0) :
    writeResult a (v1.toNat / v2.toNat : Int) true s =
      .next (withResult s a (BitVec.ofNat 16 (v1.toNat / v2.toNat)) (bit (v1.toNat < v2.toNat)) 0) := by
  have hle : v1.toNat / v2.toNat < 0x10000 := Nat.lt_of_le_of_lt (Nat.div_le_self _ _) v1.isLt
  have hcarry : ¬ 0xFFFF < v1.toNat / v2.toNat := by omega
  have hdivisor : v2.toNat ≠ 0 := BitVec.toNat_ne_iff_ne.2 h
  have hzero : BitVec.ofNat 16 (v1.toNat / v2.toNat) = 0 ↔ v1.toNat < v2.toNat := by
    rw [← BitVec.toNat_inj, BitVec.toNat_ofNat, Nat.mod_eq_of_lt hle]
    simp [Nat.div_eq_zero_iff, hdivisor]
  rw [← Int.natCast_ediv, writeResult_natCast ha]
  simp only [hzero, hcarry, decide_false, Bool.and_false]
  rfl

end

/-- Settles O13: past its operands and the zero test DIV is the result store of a quotient. -/
theorem divStoresQuotientAndFlags : Obligations.DivStoresQuotientAndFlags := by
  intro a b s ha
  refine ⟨fun hb hdivisor => ?_, fun form hform hdivisor => ?_⟩
  · show divWords .rr a b s = _
    rw [divWords, binaryOperands_rr_of_fits ha hb, if_neg hdivisor, writeResult_quotient ha hdivisor]
  · rw [divForms_runAs form hform, divWords, binaryOperands_ri_of_fits ha, if_neg hdivisor,
      writeResult_quotient ha hdivisor]

/-- Settles O27: the target is resolved first, and then the one store to CP depends on the word at 0x0004. -/
theorem jifJumpsOnZeroFlagOne : Obligations.JifJumpsOnZeroFlagOne := by
  refine fun a s => ⟨rfl, fun ha => ?_⟩
  show jumpIfZero .r a s = _
  rw [jumpIfZero, operandValue_r_of_fits ha]
  rfl

end Sys2Proof.Machine
end

section
/-! The engine family: what a cycle leaves of the run status (40_engine.md R100, R118, R119). -/

namespace Sys2Proof.Machine

/-- Settles O49: only a Running machine has a cycle. -/
theorem stoppedMachineTakesNoStep : Obligations.StoppedMachineTakesNoStep := by
  intro s h
  cases hs : s.status with
  | running => exact absurd hs h
  | halted => simp only [step, hs]
  | fatal kind => simp only [step, hs]

section
variable {s t : State}

theorem exec_running {i : Instr} (h : exec i s = .next t) : t.running = if i = .hlt then false else s.running :=
  have ⟨_, hrunning⟩ := completedInstructionKeepsQueueAndLatches i s t h
  hrunning

/-- The delivery step leaves `running` and the status. -/
theorem updateInterrupts_running_status (h : updateInterrupts s = .next t) :
    t.running = s.running ∧ t.status = s.status := by
  obtain ⟨_, ⟨_, rfl⟩ | ⟨r, rest, _, htake⟩⟩ := updateInterrupts_eq_next.1 h
  · exact ⟨rfl, rfl⟩
  · have hstores := takeInterrupt_stores htake
    exact ⟨hstores.running, hstores.status⟩

theorem settleStatus_status (s : State) : s.settleStatus.status = if s.running then s.status else .halted := by
  unfold State.settleStatus
  split <;> rfl

/-- The end of a Running machine's cycle decides the status by `running` alone. -/
theorem endCycle_status (h : endCycle s = .next t) (hs : s.status = .running) :
    t.status = if s.running then .running else .halted := by
  obtain ⟨u, hupdate, rfl⟩ := endCycle_eq_next.1 h
  obtain ⟨hrunning, hstatus⟩ := updateInterrupts_running_status hupdate
  rw [settleStatus_status, hrunning, hstatus, State.arriveLate_running, State.arriveLate_status, hs]

/-- A Running machine's cycle past a fetched instruction halts exactly after HLT. -/
theorem runFetched_decoded_status {i : Instr} (h : runFetched (.decoded i s) = .next t) (hrun : s.running = true)
    (hs : s.status = .running) : t.status = if i = .hlt then .halted else .running := by
  obtain ⟨u, hexec, hend⟩ := andThen_eq_next.1 h
  rw [endCycle_status hend ((exec_status hexec).trans hs), exec_running hexec, hrun]
  split <;> rfl

/-- A Running machine's cycle past an overrun halts (R104). -/
theorem runFetched_overrun_status (h : runFetched (.overrun s) = .next t) (hs : s.status = .running) :
    t.status = .halted := endCycle_status (s := s.stopRunning) h hs

end

/-- Settles O50: the fetch reads an instruction, and then HLT alone clears `running`, or it overruns, or it is fatal. -/
theorem machineHaltsExactlyByHltOrOverrun : Obligations.MachineHaltsExactlyByHltOrOverrun := by
  intro s t hrun h
  obtain ⟨hs, hcycle⟩ := step_eq_next.1 h
  have hearlyRun : s.arriveEarly.running = true := s.arriveEarly_running.trans hrun
  have hearly : s.arriveEarly.status = .running := s.arriveEarly_status.trans hs
  unfold cycle at hcycle
  obtain ⟨i, u, hfetch, hkeeps⟩ | ⟨u, hfetch, hkeeps⟩ | ⟨header, u, hfetch, _⟩ := fetchInstr_cases s.arriveEarly
  all_goals rw [hfetch] at hcycle ⊢
  case inl =>
    rw [runFetched_decoded_status hcycle (hkeeps.running.trans hearlyRun) (hkeeps.status.trans hearly)]
    by_cases hi : i = .hlt <;> simp [hi]
  case inr.inl =>
    simp [runFetched_overrun_status hcycle (hkeeps.status.trans hearly)]
  case inr.inr =>
    exact absurd hcycle (fatal_ne_next _ _ _)

end Sys2Proof.Machine
end

section
/-! The engine family: what the fetch unit makes of the bytes of an instruction (40_engine.md R100 to R103, R122). -/

namespace Sys2Proof

open Machine (lowByte)

theorem Instr.fields_injective : Function.Injective Instr.fields := by
  intro i j h
  have hassemble := assemble_fields i
  rw [h, assemble_fields j] at hassemble
  exact (Option.some.inj hassemble).symm

/-- Whether a pair assembles does not depend on its operand words (R78). -/
theorem assemble_ne_none_of_eq_some {op : Opcode} {m : Mode} {a b : Word} {i : Instr} (h : assemble op m a b = some i)
    (c d : Word) : assemble op m c d ≠ none := by
  intro hnone
  have hother := assemble_eq_none_iff (a := a) (b := b).2 (assemble_eq_none_iff.1 hnone)
  rw [h] at hother
  cases hother

/-- The header of an instruction decodes to it with any two words that begin with its operands: a word its mode does not
call for is ignored. -/
theorem decodeFields_header_of_take {i : Instr} {a b : Word}
    (h : [a, b].take i.fields.2.1.operandCount = i.raw.operands) : decodeFields i.header a b = .ok i := by
  obtain ⟨m, op, hm, hop, hi⟩ := assemble_of_decodeFields (decodeFields_header i)
  obtain ⟨j, hj⟩ := Option.ne_none_iff_exists'.1 (assemble_ne_none_of_eq_some hi a b)
  have hfields := fields_of_assemble hi
  have hcount : i.fields.2.1 = m := by rw [hfields]
  have hoperands : i.fields = (op, m, i.raw.operands) := by
    rw [Instr.raw, hfields]
  have hij : j = i := by
    apply Instr.fields_injective
    rw [fields_of_assemble hj, hoperands, ← h, hcount]
  rw [decodeFields_of_assigned hm hop, hj, hij]
  rfl

/-- No header is 0x0000: opcode 0x00 is unassigned (R79). -/
theorem Instr.header_ne_zero (i : Instr) : i.header ≠ 0 := by
  intro h
  have hop : Opcode.ofByte (lowByte i.header) = some i.fields.1 := by simp [Instr.header, Instr.raw]
  rw [h] at hop
  cases hop

end Sys2Proof

namespace Sys2Proof.Machine

open Claims

/-! ### Words in memory -/

/-- From address `a` on the memory holds the words listed, one after another. -/
def Memory.HoldsWords (m : Memory) : Nat → List Word → Prop
  | _, [] => True
  | a, w :: ws => m.wordAt a = w ∧ m.HoldsWords (a + 2) ws

/-- Bytes of memory that begin with a word sequence hold it. -/
theorem Memory.holdsWords_of_bytes {m : Memory} {a n : Nat} {ws : List Word} {rest : List Byte}
    (h : (List.range n).map (fun k => m.byteAt (a + k)) = wordBytes ws ++ rest) : m.HoldsWords a ws := by
  induction ws generalizing a n with
  | nil => trivial
  | cons w ws ih =>
    match n with
    | 0 | 1 => simp [wordBytes] at h
    | n + 2 =>
      simp only [wordBytes, List.range_succ_eq_map, List.map_cons, List.map_map, List.cons_append,
        List.cons.injEq] at h
      obtain ⟨hhigh, hlow, htail⟩ := h
      refine ⟨?_, ih (n := n) (a := a + 2) ?_⟩
      · rw [← joinBytes_high_low w, ← hhigh, ← hlow]
        rfl
      · rw [← htail]
        refine List.map_congr_left fun k _ => congrArg m.byteAt ?_
        show a + 2 + k = a + (k + 1 + 1)
        omega

/-- A word store below leaves the words held. -/
theorem Memory.HoldsWords.setWord {m : Memory} {a b : Nat} {ws : List Word} (h : m.HoldsWords a ws) (hb : b + 2 ≤ a)
    (v : Word) : (m.setWord b v).HoldsWords a ws := by
  induction ws generalizing a with
  | nil => trivial
  | cons w ws ih =>
    obtain ⟨hw, hws⟩ := h
    exact ⟨(m.wordAt_setWord_disjoint v (.inr (by omega))).trans hw, ih hws (by omega)⟩

/-- In canonical form the last of two stores to one word stands. -/
theorem Memory.setWord_setWord {m : Memory} (hm : m.wf) (a : Nat) (v w : Word) :
    (m.setWord a v).setWord a w = m.setWord a w := by
  refine equalBytesAreEqualMemories _ _ (setWord_wf _ _ (setWord_wf _ _ hm)) (setWord_wf _ _ hm) fun x hx => ?_
  by_cases hhigh : x = a
  · subst hhigh
    rw [byteAt_setWord_high _ _ hx, byteAt_setWord_high _ _ hx]
  · by_cases hlow : x = a + 1
    · subst hlow
      rw [byteAt_setWord_low _ _ hx, byteAt_setWord_low _ _ hx]
    · simp only [byteAt_setWord_ne _ _ hhigh hlow]

/-! ### The operand fetch -/

/-- The state after the operand words `ws` were fetched into args[k] and on. -/
def State.fetchedArgs (s : State) (k : Nat) : List Word → State
  | [] => s
  | w :: ws => ((s.setCp (s.cp + 2)).latchArg k w).fetchedArgs (k + 1) ws

theorem add_two_add_ofNat (a : Word) (n : Nat) : a + 2 + BitVec.ofNat 16 n = a + BitVec.ofNat 16 (2 + n) := by
  rw [BitVec.ofNat_add, ← BitVec.add_assoc]
  rfl

section
variable {s : State} {k : Nat} {ws : List Word}

@[simp] theorem State.cp_setCp (s : State) (t : Word) : (s.setCp t).cp = t := s.word_putWord_self (by decide) t

@[simp] theorem State.cp_latchArg (s : State) (k : Nat) (w : Word) : (s.latchArg k w).cp = s.cp := rfl

/-- Operand words that stand at CP, from 0x0002 on and below the limit of R101, are fetched. -/
theorem fetchArgs_of_holdsWords (hlow : 2 ≤ s.cp.toNat) (hfits : s.cp.toNat + 2 * ws.length ≤ 0xFFFF)
    (h : s.mem.HoldsWords s.cp.toNat ws) : fetchArgs ws.length k s = .done (s.fetchedArgs k ws) := by
  induction ws generalizing s k with
  | nil => rfl
  | cons w ws ih =>
    obtain ⟨hw, hws⟩ := h
    simp only [List.length_cons] at hfits
    have hnext : (s.cp + 2).toNat = s.cp.toNat + 2 := BitVec.toNat_add_of_lt (show s.cp.toNat + 2 < 0x10000 by omega)
    have hword : s.word s.cp = w := hw
    rw [List.length_cons, fetchArgs, fetchWord_of_le (by simp only [fetchLimit]; omega), hword]
    refine ih ?_ ?_ ?_ <;> simp only [State.cp_latchArg, State.cp_setCp, hnext]
    · omega
    · omega
    · exact hws.setWord (Nat.le_add_left 2 s.cp.toNat) _

/-- The operand fetch changes memory and the latches alone. -/
theorem State.fetchedArgs_eq (s : State) (k : Nat) (ws : List Word) :
    s.fetchedArgs k ws = { s with mem := (s.fetchedArgs k ws).mem, latches := (s.fetchedArgs k ws).latches } := by
  induction ws generalizing s k with
  | nil => rfl
  | cons w ws ih => exact ih _ _

/-- In canonical form the operand fetch changes memory in CP alone. -/
theorem State.fetchedArgs_mem (hs : s.mem.wf) (t : Word) (k : Nat) (ws : List Word) :
    ((s.setCp t).fetchedArgs k ws).mem = s.mem.setWord 0x0000 (t + BitVec.ofNat 16 (2 * ws.length)) := by
  induction ws generalizing s t k with
  | nil => simp [State.fetchedArgs]
  | cons w ws ih =>
    have hrest := ih (s := (s.setCp t).latchArg k w) (Memory.setWord_wf _ _ hs) (t + 2) (k + 1)
    have hadvance : t + 2 + BitVec.ofNat 16 (2 * ws.length) = t + BitVec.ofNat 16 (2 * (w :: ws).length) := by
      rw [List.length_cons, Nat.mul_succ, Nat.add_comm, ← add_two_add_ofNat]
    rw [hadvance] at hrest
    calc ((s.setCp t).fetchedArgs k (w :: ws)).mem
        = ((((s.setCp t).latchArg k w).setCp (t + 2)).fetchedArgs (k + 1) ws).mem := by
          rw [State.fetchedArgs, State.cp_setCp]
          rfl
      _ = (s.mem.setWord 0x0000 t).setWord 0x0000 (t + BitVec.ofNat 16 (2 * (w :: ws).length)) := hrest
      _ = s.mem.setWord 0x0000 (t + BitVec.ofNat 16 (2 * (w :: ws).length)) := Memory.setWord_setWord hs _ _ _

/-- Up to two operand words are latched as args[0] and args[1]; an argument the mode has not keeps its latch (R103). -/
theorem State.fetchedArgs_latches (s : State) (h : ws.length ≤ 2) :
    (s.fetchedArgs 0 ws).latches =
      { s.latches with arg0 := ws.getD 0 s.latches.arg0, arg1 := ws.getD 1 s.latches.arg1 } := by
  match ws with
  | [] | [_] | [_, _] => rfl
  | _ :: _ :: _ :: _ => simp at h

/-- The latches past the operand fetch of an instruction hold its operand words. -/
theorem Instr.take_getD_operands {i : Instr} (x y : Word) :
    [i.raw.operands.getD 0 x, i.raw.operands.getD 1 y].take i.fields.2.1.operandCount = i.raw.operands := by
  have hcount := i.fields.2.1.operandCount_le_two
  rw [← i.length_operands] at hcount ⊢
  show List.take i.raw.operands.length _ = _
  match i.raw.operands, (show i.raw.operands.length ≤ 2 from hcount) with
  | [], _ | [_], _ | [_, _], _ => rfl

/-! ### The fetch of an instruction -/

/-- With its header and its operand words fetched the machine is past the instruction (R122). -/
theorem State.fetchedArgs_eq_pastInstruction (hs : s.mem.wf) (i : Instr) :
    (((s.setCp (s.cp + 2)).latchWord i.header).latchFields i.header).fetchedArgs 0 i.raw.operands =
      pastInstruction s i := by
  have hlength : i.raw.operands.length = i.fields.2.1.operandCount := i.length_operands
  have hmem := State.fetchedArgs_mem (s := (s.latchWord i.header).latchFields i.header) hs (s.cp + 2) 0 i.raw.operands
  have hadvance : s.cp + 2 + BitVec.ofNat 16 (2 * i.raw.operands.length) = s.cp + BitVec.ofNat 16 i.length := by
    rw [hlength, Instr.length, add_two_add_ofNat]
  rw [hadvance] at hmem
  rw [State.fetchedArgs_eq, State.fetchedArgs_latches _ (hlength ▸ i.fields.2.1.operandCount_le_two)]
  exact congrArg (fun m => { pastInstruction s i with mem := m }) hmem

/-- No instruction begins at 0x0000, where CP itself stands: its header would be 0x0000. -/
theorem one_le_cp_of_header {i : Instr} (h : s.word s.cp = i.header) : 1 ≤ s.cp.toNat := by
  by_contra hlt
  have hcp : s.cp = 0 := BitVec.eq_of_toNat_eq (Nat.lt_one_iff.1 (Nat.not_le.1 hlt))
  rw [hcp] at h
  exact i.header_ne_zero (h.symm.trans hcp)

/-- The words of an instruction at CP, below the limit of R101, are fetched and decoded as that instruction. -/
theorem fetchInstr_of_holdsWords {i : Instr} (hs : s.mem.wf) (hfits : s.cp.toNat + i.length ≤ 0xFFFF)
    (h : s.mem.HoldsWords s.cp.toNat (encode i)) : fetchInstr s = .decoded i (pastInstruction s i) := by
  obtain ⟨hheader, hwords⟩ := h
  have hword : s.word s.cp = i.header := hheader
  have hlow := one_le_cp_of_header hword
  have hlength : i.raw.operands.length = i.fields.2.1.operandCount := i.length_operands
  rw [Instr.length, ← hlength] at hfits
  have hmode : Mode.ofByte (highByte i.header) = some i.fields.2.1 := by simp [Instr.header, Instr.raw]
  have hargs : fetchArgs i.fields.2.1.operandCount 0
      (((s.setCp (s.cp + 2)).latchWord i.header).latchFields i.header) = .done (pastInstruction s i) := by
    have hcp : (((s.setCp (s.cp + 2)).latchWord i.header).latchFields i.header).cp.toNat = s.cp.toNat + 2 := by
      show (s.setCp (s.cp + 2)).cp.toNat = _
      rw [State.cp_setCp]
      exact BitVec.toNat_add_of_lt (show s.cp.toNat + 2 < 0x10000 by omega)
    rw [← hlength, ← State.fetchedArgs_eq_pastInstruction hs]
    refine fetchArgs_of_holdsWords ?_ ?_ ?_ <;> rw [hcp]
    · omega
    · omega
    · exact hwords.setWord (Nat.le_add_left 2 s.cp.toNat) _
  have hdecode : decodeFields i.header (pastInstruction s i).latches.arg0 (pastInstruction s i).latches.arg1 = .ok i :=
    decodeFields_header_of_take (Instr.take_getD_operands _ _)
  rw [fetchInstr, fetchWord_of_le (by simp only [fetchLimit]; omega), hword]
  simp only [hmode, hargs, hdecode]

end

/-- Settles O45: bytes that decode are an encoding, whose words the fetch unit reads where they stand. -/
theorem stepRunsTheDecodedInstruction : Obligations.StepRunsTheDecodedInstruction := by
  intro s i rest hs hwf hfits hdecode
  have hcp : s.arriveEarly.cp = s.cp := congrArg (·.wordAt 0x0000) s.arriveEarly_mem
  have hholds : s.arriveEarly.mem.HoldsWords s.arriveEarly.cp.toNat (encode i) := by
    rw [s.arriveEarly_mem, hcp]
    exact Memory.holdsWords_of_bytes (eq_encodeBytes_append_of_decode hdecode)
  have hfetch : fetchInstr s.arriveEarly = .decoded i (pastInstruction s.arriveEarly i) :=
    fetchInstr_of_holdsWords (s.arriveEarly_mem ▸ hwf) (hcp ▸ hfits) hholds
  calc step s = cycle s := by simp only [step, hs]
    _ = runFetched (fetchInstr s.arriveEarly) := rfl
    _ = andThen (exec i (pastInstruction s.arriveEarly i)) endCycle := by
      rw [hfetch]
      rfl

end Sys2Proof.Machine
end

section
/-! The arithmetic family: ADD, SUB, MUL, INC and DEC (41_arithmetic.md R130 to R132, R134 to R136). -/

namespace Sys2Proof.Machine

open Claims

/-! ### The result store of a sum, a difference and a product -/

section
variable {a : Word} {s : State}

/-- The result store of a sum (R130). -/
theorem writeResult_sum (ha : a ≠ 0xFFFF) (v1 v2 : Word) :
    writeResult a (v1.toNat + v2.toNat : Int) true s =
      .next (withResult s a (v1 + v2) (bit (v1 + v2 = 0)) (bit (0xFFFF < v1.toNat + v2.toNat))) := by
  rw [← Int.natCast_add, writeResult_natCast ha, BitVec.ofNat_add, BitVec.ofNat_toNat, BitVec.ofNat_toNat]
  rfl

/-- The result store of a product (R132). -/
theorem writeResult_product (ha : a ≠ 0xFFFF) (v1 v2 : Word) :
    writeResult a (v1.toNat * v2.toNat : Int) true s =
      .next (withResult s a (v1 * v2) (bit (v1 * v2 = 0)) (bit (0xFFFF < v1.toNat * v2.toNat))) := by
  rw [← Int.natCast_mul, writeResult_natCast ha, BitVec.ofNat_mul, BitVec.ofNat_toNat, BitVec.ofNat_toNat]
  rfl

theorem trunc16_sub (v1 v2 : Word) : trunc16 (v1.toNat - v2.toNat) = v1 - v2 := by
  have hcast : trunc16 (v1.toNat - v2.toNat) = ((v1.toNat - v2.toNat : Int) : Word) := rfl
  simp [hcast]

/-- CARRY_FLAG of a difference is the borrow: a negative difference is the one that no word equals (R111, R131). -/
theorem carryFlag_sub (v1 v2 : Word) : carryFlag (v1.toNat - v2.toNat) true = bit (v1.toNat < v2.toNat) := by
  have hborrow : ((v1.toNat : Int) - v2.toNat ≠ ((v1 - v2).toNat : Int)) ↔ v1.toNat < v2.toNat := by
    have h1 := v1.isLt
    have h2 := v2.isLt
    rw [BitVec.toNat_sub]
    omega
  simp only [carryFlag, trunc16_sub, hborrow, Bool.true_and]
  rfl

/-- The result store of a difference (R131). -/
theorem writeResult_difference (ha : a ≠ 0xFFFF) (v1 v2 : Word) :
    writeResult a (v1.toNat - v2.toNat : Int) true s =
      .next (withResult s a (v1 - v2) (bit (v1 = v2)) (bit (v1.toNat < v2.toNat))) := by
  have hzero : v1 - v2 = 0 ↔ v1 = v2 := sub_eq_zero
  refine writeResult_eq_next.2 ⟨ha, ?_⟩
  rw [carryFlag_sub, trunc16_sub, zeroFlag]
  simp only [hzero]
  rfl

end

/-! ### The binary instructions (R107) -/

/-- What a binary operation does with its two inputs is what all its forms do: in mode RR with the word at args[1] as
the second input, in the other eight modes with args[1] itself. -/
theorem exec_binaryForms {op : Mode → Word → Word → State → Out} {rr : Word → Word → Instr}
    {forms : List (Word → Word → Instr)} {a b : Word} {s : State} {k : Word → Word → Out} {result : Word → Out}
    (hrr : RunsAs op .rr rr) (hforms : ∀ form ∈ forms, RunsAs op .ri form)
    (hop : ∀ m, op m a b s = binaryOperands m a b s k) (ha : a ≠ 0xFFFF) (hk : ∀ v2, k (s.word a) v2 = result v2) :
    (b ≠ 0xFFFF → exec (rr a b) s = result (s.word b)) ∧ ∀ form ∈ forms, exec (form a b) s = result b := by
  refine ⟨fun hb => ?_, fun form hform => ?_⟩
  · rw [hrr, hop, binaryOperands_rr_of_fits ha hb, hk]
  · rw [hforms form hform, hop, binaryOperands_ri_of_fits ha, hk]

/-- Settles O10: each form of ADD is the result store of a sum. -/
theorem addStoresSumAndFlags : Obligations.AddStoresSumAndFlags := fun a _ s ha =>
  exec_binaryForms (op := addWords) (fun _ _ _ => rfl) addForms_runAs (fun _ => rfl) ha (writeResult_sum ha (s.word a))

/-- Settles O11: each form of SUB is the result store of a difference. -/
theorem subStoresDifferenceAndFlags : Obligations.SubStoresDifferenceAndFlags := fun a _ s ha =>
  exec_binaryForms (op := subWords) (fun _ _ _ => rfl) subForms_runAs (fun _ => rfl) ha
    (writeResult_difference ha (s.word a))

/-- Settles O12: each form of MUL is the result store of a product. -/
theorem mulStoresLowProductAndFlags : Obligations.MulStoresLowProductAndFlags := fun a _ s ha =>
  exec_binaryForms (op := mulWords) (fun _ _ _ => rfl) mulForms_runAs (fun _ => rfl) ha
    (writeResult_product ha (s.word a))

/-! ### The unary instructions (R108) -/

section
variable {a : Word} {s : State}

/-- INC is the sum with 1, which is 0 and exceeds a word for 0xFFFF alone (R134). -/
theorem incWord_of_fits (ha : a ≠ 0xFFFF) :
    incWord a s = .next (withResult s a (s.word a + 1) (bit (s.word a = 0xFFFF)) (bit (s.word a = 0xFFFF))) := by
  have hzero : s.word a + 1 = 0 ↔ s.word a = 0xFFFF := add_eq_zero_iff_eq_neg
  have hcarry : 0xFFFF < (s.word a).toNat + (1 : Word).toNat ↔ s.word a = 0xFFFF := toNat_succ_gt_iff
  have hstore : incWord a s = writeResult a ((s.word a).toNat + (1 : Word).toNat : Int) true s := by
    rw [incWord, unaryOperand, withWord_of_fits ha]
    rfl
  rw [hstore, writeResult_sum ha]
  simp only [hzero, hcarry]

/-- DEC is the difference with 1, which borrows for 0 alone (R135). -/
theorem decWord_of_fits (ha : a ≠ 0xFFFF) :
    decWord a s = .next (withResult s a (s.word a - 1) (bit (s.word a = 1)) (bit (s.word a = 0))) := by
  have hborrow : (s.word a).toNat < (1 : Word).toNat ↔ s.word a = 0 :=
    Nat.lt_one_iff.trans (BitVec.toNat_inj (y := 0))
  have hstore : decWord a s = writeResult a ((s.word a).toNat - (1 : Word).toNat : Int) true s := by
    rw [decWord, unaryOperand, withWord_of_fits ha]
    rfl
  rw [hstore, writeResult_difference ha]
  simp only [hborrow]

end

/-- Settles O15: in each of its three modes INC is `incWord` and DEC is `decWord`. -/
theorem incAndDecStepByOneAndSetFlags : Obligations.IncAndDecStepByOneAndSetFlags := by
  refine fun a s ha => ⟨fun form hform => ?_, fun form hform => ?_⟩
  · have hexec : exec (form a) s = incWord a s := by fin_cases hform <;> rfl
    rw [hexec, incWord_of_fits ha]
  · have hexec : exec (form a) s = decWord a s := by fin_cases hform <;> rfl
    rw [hexec, decWord_of_fits ha]

end Sys2Proof.Machine
end

section
/-! The logic family: AND, OR and XOR (42_logic.md R140 to R142). -/

namespace Sys2Proof.Machine

open Claims

/-! ### The result store of a word -/

section
variable {a : Word} {s : State}

/-- The result store of a word under an operation that is not of carry kind (R109 to R111). -/
theorem writeResult_word (ha : a ≠ 0xFFFF) (w : Word) :
    writeResult a w.toNat false s = .next (withResult s a w (bit (w = 0)) 0) := by
  rw [writeResult_natCast ha, BitVec.ofNat_toNat, BitVec.setWidth_eq]
  rfl

/-- An inclusive or is 0 when both inputs are (R141). -/
theorem writeResult_or (ha : a ≠ 0xFFFF) (v1 v2 : Word) :
    writeResult a (v1 ||| v2).toNat false s = .next (withResult s a (v1 ||| v2) (bit (v1 = 0 && v2 = 0)) 0) := by
  have hzero : v1 ||| v2 = 0 ↔ v1 = 0 ∧ v2 = 0 := BitVec.or_eq_zero_iff
  simp only [writeResult_word ha, hzero, Bool.decide_and]

/-- An exclusive or is 0 when the inputs are equal (R142). -/
theorem writeResult_xor (ha : a ≠ 0xFFFF) (v1 v2 : Word) :
    writeResult a (v1 ^^^ v2).toNat false s = .next (withResult s a (v1 ^^^ v2) (bit (v1 = v2)) 0) := by
  have hzero : v1 ^^^ v2 = 0 ↔ v1 = v2 := BitVec.xor_eq_zero_iff
  simp only [writeResult_word ha, hzero]

end

/-- Settles O16: each form of AND, OR and XOR is the result store of a word. -/
theorem andOrXorStoreBitsAndClearCarry : Obligations.AndOrXorStoreBitsAndClearCarry := by
  intro a b s ha
  obtain ⟨handRR, handForms⟩ := exec_binaryForms (op := andWords) (rr := .andRR) (b := b)
    (fun _ _ _ => rfl) andForms_runAs (fun _ => rfl) ha fun v2 => writeResult_word ha (s.word a &&& v2)
  obtain ⟨horRR, horForms⟩ := exec_binaryForms (op := orWords) (rr := .orRR) (b := b)
    (fun _ _ _ => rfl) orForms_runAs (fun _ => rfl) ha (writeResult_or ha (s.word a))
  obtain ⟨hxorRR, hxorForms⟩ := exec_binaryForms (op := xorWords) (rr := .xorRR) (b := b)
    (fun _ _ _ => rfl) xorForms_runAs (fun _ => rfl) ha (writeResult_xor ha (s.word a))
  exact ⟨handRR, handForms, horRR, horForms, hxorRR, hxorForms⟩

end Sys2Proof.Machine
end

section
/-! The data movement family: the word store that a MOV is (44_move_stack.md R160). -/

namespace Sys2Proof.Machine

open Claims

/-! ### The operands of a MOV, where their accesses fit -/

section
variable {s : State} {w : Word}

theorem sourceValue_of_fits {kind : OperandKind} (h : sourceFits kind w s) (k : Word → Out) :
    sourceValue kind w s k = k (sourceAt kind w s) := by
  cases kind with
  | i => rfl
  | r => exact withWord_of_fits h s k
  | a =>
    obtain ⟨hw, hp⟩ := h
    exact (withWord_of_fits hw s fun p => withWord p s k).trans (withWord_of_fits hp s k)

/-- Where a target fits, storing there is one word store at its address. -/
theorem storeAtTarget_of_fits {kind : TargetKind} (h : targetFits kind w s) (v : Word) :
    targetAddress kind w s (fun t => storeWord t v s) = .next (s.putWord (addressAt kind w s) v) := by
  cases kind with
  | r => exact storeWord_of_fits h v s
  | a =>
    obtain ⟨hw, hp⟩ := h
    exact (withWord_of_fits hw s fun t => storeWord t v s).trans (storeWord_of_fits hp v s)

end

section
variable {s t : State} {src : OperandKind} {dst : TargetKind} {a b : Word}

/-- A MOV whose accesses fit is one word store: the value of its source at the address of its target. -/
theorem moveWord_of_fits (hsrc : sourceFits src a s) (hdst : targetFits dst b s) :
    moveWord src dst a b s = .next (s.putWord (addressAt dst b s) (sourceAt src a s)) :=
  (sourceValue_of_fits hsrc _).trans (storeAtTarget_of_fits hdst _)

/-- A MOV that answers a next state did its one word store. -/
theorem moveWord_eq_next (h : moveWord src dst a b s = .next t) :
    s.putWord (addressAt dst b s) (sourceAt src a s) = t :=
  have ⟨_, hstore⟩ := storeWord_eq_next.1 (targetAddress_eq_next (sourceValue_eq_next h))
  hstore

end

/-- Settles O21: each mode's premises say that its source and its target fit. -/
theorem movStoresSourceAtTarget : Obligations.MovStoresSourceAtTarget := fun _ _ _ =>
  ⟨fun hb => moveWord_of_fits (src := .i) (dst := .r) trivial hb,
    fun hb hq => moveWord_of_fits (src := .i) (dst := .a) trivial ⟨hb, hq⟩,
    fun ha hb => moveWord_of_fits (src := .r) (dst := .r) ha hb,
    fun ha hb hq => moveWord_of_fits (src := .r) (dst := .a) ha ⟨hb, hq⟩,
    fun ha hp hb => moveWord_of_fits (src := .a) (dst := .r) ⟨ha, hp⟩ hb,
    fun ha hp hb hq => moveWord_of_fits (src := .a) (dst := .a) ⟨ha, hp⟩ ⟨hb, hq⟩⟩

end Sys2Proof.Machine
end

section
/-! The data movement family: what a push leaves (40_engine.md R113; 44_move_stack.md R161). -/

namespace Sys2Proof.Machine

open Claims

section
variable {s t : State} {v : Word}

/-- A push that answers a next state had room, and left SP + 2 in SP and the value above it. -/
theorem stackPush_eq_afterPush : stackPush v s = .next t ↔ pushFits s ∧ afterPush s v = t := by
  have htop : BitVec.ofNat 16 (s.sp.toNat + 2) = s.sp + 2 := by
    rw [BitVec.ofNat_add, BitVec.ofNat_toNat, BitVec.setWidth_eq]
    rfl
  rw [stackPush_eq_next, htop]
  rfl

theorem stackPush_of_fits (h : pushFits s) (v : Word) : stackPush v s = .next (afterPush s v) :=
  stackPush_eq_afterPush.2 ⟨h, rfl⟩

end

/-- Settles O23: past its operand PUSH is a push, and the operand was read in the state before it. -/
theorem pushStoresValueAboveSp : Obligations.PushStoresValueAboveSp := by
  refine fun a s hfits => ⟨stackPush_of_fits hfits a, fun ha => ?_⟩
  show pushValue .r a s = _
  rw [pushValue, operandValue_r_of_fits ha, stackPush_of_fits hfits]

end Sys2Proof.Machine
end

section
/-! The data movement family: what MOV and the stack instructions leave unchanged (44_move_stack.md R160 to R162;
45_control.md R172, R173; 40_engine.md R115). -/

namespace Sys2Proof.Machine

open Claims

/-- Nothing but the listed bytes of memory changes. -/
def ChangesOnly (changed : List Nat) (s t : State) : Prop :=
  keepsBytesBut changed s t ∧ keepsOutside s t ∧ t.running = s.running

section
variable {s t : State} {xs ys : List Nat}

/-- Word stores change memory alone, so the bytes they keep are their whole frame. -/
theorem Stores.changesOnly (h : Stores s t) (hbytes : keepsBytesBut xs s t) : ChangesOnly xs s t :=
  ⟨hbytes, h.keepsOutside, h.running⟩

theorem keepsBytesBut_mono (h : keepsBytesBut xs s t) (hsub : xs ⊆ ys) : keepsBytesBut ys s t :=
  fun x hx => h x fun hmem => hx (hsub hmem)

theorem keepsBytesBut_append_comm (h : keepsBytesBut (xs ++ ys) s t) : keepsBytesBut (ys ++ xs) s t :=
  keepsBytesBut_mono h List.perm_append_comm.subset

/-! ### The frame of a push and of a pop -/

theorem afterPush_keepsBytesBut (s : State) (v : Word) :
    keepsBytesBut (bytesOf 0x0002 ++ bytesOf (s.sp + 2)) s (afterPush s v) :=
  keepsBytesBut_trans (s.putWord_keepsBytesBut _ _) (State.putWord_keepsBytesBut _ _ v)

theorem popped_keepsBytesBut (s : State) : keepsBytesBut (bytesOf 0x0002 ++ bytesOf s.sp) s s.popped := by
  have hcleared := s.putWord_keepsBytesBut s.sp 0x0000
  unfold State.popped
  split
  · exact keepsBytesBut_append_comm (keepsBytesBut_trans hcleared (State.putWord_keepsBytesBut _ 0x0002 _))
  · exact keepsBytesBut_mono hcleared (List.subset_append_right _ _)

/-- A store to CP adds the bytes of CP to a frame. -/
theorem setCp_keepsBytesBut (h : keepsBytesBut (xs ++ ys) s t) (v : Word) :
    keepsBytesBut (bytesOf 0x0000 ++ xs ++ ys) s (t.setCp v) := by
  rw [List.append_assoc]
  exact keepsBytesBut_append_comm (keepsBytesBut_trans h (t.putWord_keepsBytesBut 0x0000 v))

/-! ### The frame of each instruction -/

theorem moveWord_frame {src : OperandKind} {dst : TargetKind} {a b : Word} (h : moveWord src dst a b s = .next t) :
    ChangesOnly (bytesOf (addressAt dst b s)) s t := by
  refine (moveWord_stores h).changesOnly ?_
  obtain rfl := moveWord_eq_next h
  exact s.putWord_keepsBytesBut _ _

theorem pushValue_frame {kind : ValueKind} {a : Word} (h : pushValue kind a s = .next t) :
    ChangesOnly (bytesOf 0x0002 ++ bytesOf (s.sp + 2)) s t := by
  refine (pushValue_stores h).changesOnly ?_
  obtain ⟨_, rfl⟩ := stackPush_eq_afterPush.1 (operandValue_eq_next h)
  exact afterPush_keepsBytesBut s _

theorem popTo_frame {a : Word} (h : popTo a s = .next t) :
    ChangesOnly (bytesOf 0x0002 ++ bytesOf s.sp ++ bytesOf a) s t := by
  refine (popTo_stores h).changesOnly ?_
  obtain ⟨_, hstore⟩ := stackPop_eq_next.1 h
  obtain ⟨_, rfl⟩ := storeWord_eq_next.1 hstore
  exact keepsBytesBut_trans (popped_keepsBytesBut s) (State.putWord_keepsBytesBut _ a _)

theorem callTo_frame {kind : ValueKind} {a : Word} (h : callTo kind a s = .next t) :
    ChangesOnly (bytesOf 0x0000 ++ bytesOf 0x0002 ++ bytesOf (s.sp + 2)) s t := by
  refine (callTo_stores h).changesOnly ?_
  obtain ⟨u, hpush, rfl⟩ := callTo_eq_next h
  obtain ⟨_, rfl⟩ := stackPush_eq_afterPush.1 hpush
  exact setCp_keepsBytesBut (afterPush_keepsBytesBut s _) _

theorem returnToCaller_frame (h : returnToCaller s = .next t) :
    ChangesOnly (bytesOf 0x0000 ++ bytesOf 0x0002 ++ bytesOf s.sp) s t := by
  refine (returnToCaller_stores h).changesOnly ?_
  obtain ⟨_, rfl⟩ := returnToCaller_eq_next.1 h
  exact setCp_keepsBytesBut (popped_keepsBytesBut s) _

end

/-- Settles O34: each form is a MOV with a target of kind R, or with one of kind A. -/
theorem movFrame : Obligations.MovFrame := by
  intro a b s t
  simp only [List.mem_cons, List.not_mem_nil, or_false]
  refine ⟨?_, ?_⟩
  · rintro form (rfl | rfl | rfl) h
    · exact moveWord_frame (src := .r) (dst := .r) h
    · exact moveWord_frame (src := .a) (dst := .r) h
    · exact moveWord_frame (src := .i) (dst := .r) h
  · rintro form (rfl | rfl | rfl) h
    · exact moveWord_frame (src := .r) (dst := .a) h
    · exact moveWord_frame (src := .a) (dst := .a) h
    · exact moveWord_frame (src := .i) (dst := .a) h

/-- Settles O35: PUSH and CALL are a push, POP and RET a pop, and all but PUSH store one word more after it. -/
theorem stackFormsFrame : Obligations.StackFormsFrame := by
  intro a s t
  simp only [List.mem_cons, List.not_mem_nil, or_false]
  refine ⟨?_, ?_, ?_, returnToCaller_frame⟩
  · rintro i (rfl | rfl) h
    · exact pushValue_frame (kind := .i) h
    · exact pushValue_frame (kind := .r) h
  · rintro i (rfl | rfl | rfl) h <;> exact popTo_frame h
  · rintro i (rfl | rfl) h
    · exact callTo_frame (kind := .i) h
    · exact callTo_frame (kind := .r) h

end Sys2Proof.Machine
end

section
/-! The control family: JMP, JIF and HLT (45_control.md R170, R171, R174; 40_engine.md R115). -/

namespace Sys2Proof.Machine

open Claims

theorem encode_jmpI (a : Word) : encode (.jmpI a) = [0x0813, a] :=
  congrArg (· :: [a]) (show joinBytes 0x08 0x13 = 0x0813 by decide)

theorem encode_jmpR (a : Word) : encode (.jmpR a) = [0x0913, a] :=
  congrArg (· :: [a]) (show joinBytes 0x09 0x13 = 0x0913 by decide)

section
variable {s t : State} {kind : ValueKind} {a : Word}

/-- All that a jump does, when it is taken. -/
theorem setCp_changesOnly (s : State) (v : Word) : ChangesOnly (bytesOf 0x0000) s (s.setCp v) :=
  (Stores.setCp .refl v).changesOnly (s.putWord_keepsBytesBut 0x0000 v)

theorem jumpTo_r_of_fits (ha : a ≠ 0xFFFF) : jumpTo .r a s = .next (s.setCp (s.word a)) :=
  operandValue_r_of_fits ha _

theorem jumpTo_r_top (s : State) : jumpTo .r 0xFFFF s = outOfRange s := operandValue_r_top s _

theorem jumpTo_frame (h : jumpTo kind a s = .next t) : ChangesOnly (bytesOf 0x0000) s t := by
  obtain rfl := Host.Outcome.next.inj (operandValue_eq_next h)
  exact setCp_changesOnly s _

theorem jumpIfZero_frame (h : jumpIfZero kind a s = .next t) : ChangesOnly (bytesOf 0x0000) s t := by
  obtain rfl := Host.Outcome.next.inj (operandValue_eq_next h)
  split
  · exact setCp_changesOnly s _
  · exact Stores.refl.changesOnly fun _ _ => rfl

end

/-- Settles O36: a jump is at most one store to CP, and HLT stores nothing. -/
theorem jumpAndHaltFrame : Obligations.JumpAndHaltFrame := by
  intro a s t
  simp only [List.mem_cons, List.not_mem_nil, or_false]
  refine ⟨?_, fun h => ?_⟩
  · rintro i (rfl | rfl | rfl | rfl) h
    · exact jumpIfZero_frame (kind := .i) h
    · exact jumpIfZero_frame (kind := .r) h
    · exact jumpTo_frame (kind := .i) h
    · exact jumpTo_frame (kind := .r) h
  · obtain rfl := exec_hlt_eq_next h
    exact ⟨rfl, ⟨rfl, rfl, rfl, rfl, rfl⟩, rfl⟩

/-- Settles O28: past its operand JMP is the one store to CP. -/
theorem jmpWritesCp : Obligations.JmpWritesCp := by
  refine fun a s => ⟨encode_jmpI a, encode_jmpR a, ⟨s.setCp a, rfl, s.cp_setCp a, setCp_changesOnly s a⟩,
    fun ha => ?_, fun ha => ?_⟩
  · exact ⟨_, jumpTo_r_of_fits ha, s.cp_setCp _, setCp_changesOnly s _⟩
  · rw [ha]
    exact jumpTo_r_top s

/-- Settles O31: HLT is `stopRunning`. -/
theorem hltClearsRunning : Obligations.HltClearsRunning := fun _ => rfl

end Sys2Proof.Machine
end

section
/-! The control family: what a pop leaves and where it fails (40_engine.md R114; 44_move_stack.md R162; 45_control.md
R173). -/

namespace Sys2Proof.Machine

open Claims

theorem popped_eq_afterPop (s : State) : s.popped = afterPop s := rfl

section
variable {s : State}

/-- A pop is the word read at SP, and what it leaves does not depend on the word (D32). -/
theorem stackPop_eq_withWord (s : State) (k : Word → State → Out) :
    stackPop s k = withWord s.sp s fun v => k v s.popped := rfl

theorem stackPop_of_fits (h : s.sp ≠ 0xFFFF) (k : Word → State → Out) :
    stackPop s k = k (s.word s.sp) s.popped := by
  rw [stackPop_eq_withWord, withWord_of_fits h]

theorem stackPop_top (h : s.sp = 0xFFFF) (k : Word → State → Out) : stackPop s k = outOfRange s := by
  rw [stackPop_eq_withWord]
  exact withWord_eq_outOfRange fun hfits => absurd h hfits

theorem returnToCaller_top (h : s.sp = 0xFFFF) : returnToCaller s = outOfRange s := stackPop_top h _

theorem returnToCaller_of_fits (h : s.sp ≠ 0xFFFF) : returnToCaller s = .next (s.popped.setCp (s.word s.sp)) :=
  returnToCaller_eq_next.2 ⟨h, rfl⟩

/-- A return is a POP to CP, where a word store always fits. -/
theorem returnToCaller_eq_popTo (s : State) : returnToCaller s = popTo cpCell s :=
  congrArg (stackPop s) (funext₂ fun v popped => (storeWord_of_fits (by decide) v popped).symm)

/-- A POP to 0xFFFF ends out of range in the state that its pop left (D17). -/
theorem popTo_top (h : s.sp ≠ 0xFFFF) : popTo 0xFFFF s = outOfRange (afterPop s) := by
  rw [popTo, stackPop_of_fits h, popped_eq_afterPop]
  exact storeWord_top _ _

theorem exec_pop {form : Word → Instr} (h : form ∈ [Instr.popI, .popR, .popA]) (a : Word) (s : State) :
    exec (form a) s = popTo a s := by
  simp only [List.mem_cons, List.not_mem_nil, or_false] at h
  obtain rfl | rfl | rfl := h <;> rfl

end

/-- Settles O26: the read at SP comes first, and the store of a POP after the whole pop. -/
theorem popAndRetOutOfRangeIsFatal : Obligations.PopAndRetOutOfRangeIsFatal := by
  refine fun a s => ⟨fun h => ⟨returnToCaller_top h, fun form hform => ?_⟩, fun h form hform => ?_⟩
  · rw [exec_pop hform]
    exact stackPop_top h _
  · rw [exec_pop hform, popTo_top h]

/-- Settles O30: RET is a pop and the store to CP, and so is POP to 0x0000. -/
theorem retPopsIntoCp : Obligations.RetPopsIntoCp :=
  fun s => ⟨returnToCaller_of_fits, returnToCaller_eq_popTo s⟩

end Sys2Proof.Machine
end

section
/-! The control family: CALL, and the RET that resumes after it (45_control.md R172, R173, R175). -/

namespace Sys2Proof.Machine

open Claims

section
variable {s t : State} {a : Word} {xs : List Nat}

/-- A store to CP leaves the words above it. -/
theorem State.word_setCp_of_le (s : State) (v : Word) (h : 2 ≤ a.toNat) : (s.setCp v).word a = s.word a :=
  s.word_putWord_disjoint v (.inr h)

/-- A store to SP leaves the words above it. -/
theorem State.word_setSp_of_le (s : State) (v : Word) (h : 4 ≤ a.toNat) : (s.setSp v).word a = s.word a :=
  s.word_putWord_disjoint v (.inr h)

/-- A word that reads as before takes its bytes out of a frame. -/
theorem keepsBytesBut_of_word_eq (h : keepsBytesBut (bytesOf a ++ xs) s t) (hword : t.word a = s.word a) :
    keepsBytesBut xs s t := by
  rw [State.word_eq_joinBytes, State.word_eq_joinBytes] at hword
  obtain ⟨hhigh, hlow⟩ := joinBytes_inj hword
  intro x hx
  by_cases hmem : x ∈ bytesOf a
  · simp only [bytesOf, List.mem_cons, List.not_mem_nil, or_false] at hmem
    obtain rfl | rfl := hmem
    · exact hhigh
    · exact hlow
  · exact h x (mt List.mem_append.1 (not_or.2 ⟨hmem, hx⟩))

/-! ### The stack at or above STACK_BASE -/

/-- With room on the stack SP + 2 does not wrap. -/
theorem toNat_sp_add_two (h : pushFits s) : (s.sp + 2).toNat = s.sp.toNat + 2 :=
  BitVec.toNat_add_of_lt (Nat.lt_of_le_of_lt h (by decide))

/-- With room on the stack the new top is an address whose word fits. -/
theorem sp_add_two_ne_top (h : pushFits s) : s.sp + 2 ≠ 0xFFFF := by
  have hroom : s.sp.toNat + 2 ≤ 0x01FD := h
  exact toNat_succ_le_iff.1 (by rw [toNat_sp_add_two h]; omega)

/-- A push above the registers leaves SP two higher: its store does not reach SP. -/
theorem afterPush_sp (hlow : 0x0100 ≤ s.sp.toNat) (h : pushFits s) (v : Word) : (afterPush s v).sp = s.sp + 2 := by
  have htop := toNat_sp_add_two h
  exact (State.sp_putWord_of_disjoint _ v (.inr (by omega))).trans (s.sp_setSp _)

theorem afterPush_word_top (h : pushFits s) (v : Word) : (afterPush s v).word (s.sp + 2) = v :=
  State.word_putWord_self _ (sp_add_two_ne_top h) v

/-- Above STACK_BASE a return leaves SP two lower, the word at the old top in CP, and that cell cleared. -/
theorem returnToCaller_above_base (hbase : 0x0100 < t.sp.toNat) (hfits : t.sp ≠ 0xFFFF) :
    ∃ u, returnToCaller t = .next u ∧ u.cp = t.word t.sp ∧ u.sp = t.sp - 2 ∧ u.word t.sp = 0 := by
  have hpopped : t.popped = (t.putWord t.sp 0x0000).setSp (t.sp - 2) := if_pos hbase
  refine ⟨_, returnToCaller_of_fits hfits, State.cp_setCp _ _, ?_, ?_⟩
  · rw [State.sp_setCp, hpopped, State.sp_setSp]
  · rw [State.word_setCp_of_le _ _ (by omega), hpopped, State.word_setSp_of_le _ _ (by omega),
      t.word_putWord_self hfits]

/-- A CALL at or above STACK_BASE leaves its target in CP, SP two higher, and the old CP at the new top. -/
theorem callTo_at_base {kind : ValueKind} (hlow : 0x0100 ≤ s.sp.toNat) (h : callTo kind a s = .next t) :
    pushFits s ∧ t.cp = valueAt kind a s ∧ t.sp = s.sp + 2 ∧ t.word (s.sp + 2) = s.cp := by
  obtain ⟨u, hpush, rfl⟩ := callTo_eq_next h
  obtain ⟨hfits, rfl⟩ := stackPush_eq_afterPush.1 hpush
  have hcell := toNat_sp_add_two hfits
  refine ⟨hfits, State.cp_setCp _ _, ?_, ?_⟩
  · rw [State.sp_setCp, afterPush_sp hlow hfits]
  · rw [State.word_setCp_of_le _ _ (by omega), afterPush_word_top hfits]

end

/-- Settles O29: past its operand CALL is a push of CP, and the operand was read in the state before it. -/
theorem callPushesReturnAddressAndJumps : Obligations.CallPushesReturnAddressAndJumps := by
  refine fun a s hfits => ⟨?_, fun ha => ?_⟩
  · show callTo .i a s = _
    rw [callTo, operandValue, stackPush_of_fits hfits]
    rfl
  · show callTo .r a s = _
    rw [callTo, operandValue_r_of_fits ha, stackPush_of_fits hfits]
    rfl

/-- Settles O44: the cell CALL pushed to is the one RET pops, and CP and SP read after RET as before CALL. -/
theorem callThenRetResumes : Obligations.CallThenRetResumes := by
  intro a s t hlow hcall
  obtain ⟨hfits, hcp, hsp, htop⟩ := callTo_at_base (kind := .i) hlow hcall
  have hcell := toNat_sp_add_two hfits
  obtain ⟨u, hret, hcpBack, hspBack, hcleared⟩ :=
    returnToCaller_above_base (by rw [hsp]; omega) (hsp ▸ sp_add_two_ne_top hfits)
  obtain ⟨hcallFrame, _⟩ := callTo_frame (kind := .i) hcall
  obtain ⟨hretFrame, _⟩ := returnToCaller_frame hret
  rw [hsp] at hretFrame hcpBack hspBack hcleared
  rw [htop] at hcpBack
  rw [BitVec.add_sub_cancel] at hspBack
  have hframe : keepsBytesBut (bytesOf 0x0000 ++ (bytesOf 0x0002 ++ bytesOf (s.sp + 2))) s u :=
    keepsBytesBut_mono (keepsBytesBut_trans hcallFrame hretFrame) (by simp)
  exact ⟨hcp, u, hret, hcpBack, hspBack, hcleared,
    keepsBytesBut_of_word_eq (keepsBytesBut_of_word_eq hframe hcpBack) hspBack⟩

end Sys2Proof.Machine
end

section
/-! The exceptions family: what a cycle does to the interrupt queue and the schedule (60_exceptions.md R183, R185, R191;
92_eei_decisions.md D28). -/

namespace Sys2Proof.Machine

open Claims

/-! ### The arrivals -/

theorem recordsOf_cons_enqueue (r : Record) (es : List HostEvent) :
    recordsOf (.enqueue r :: es) = r :: recordsOf es := rfl

theorem recordsOf_cons_close (es : List HostEvent) : recordsOf (.close :: es) = recordsOf es := rfl

/-- The records that arrive join the tail of the queue in their order. -/
theorem State.arriveAll_irq (s : State) (es : List HostEvent) : (s.arriveAll es).irq = s.irq ++ recordsOf es := by
  induction es generalizing s with
  | nil => exact (List.append_nil _).symm
  | cons e es ih =>
    refine (ih (s.arrive e)).trans ?_
    cases e with
    | enqueue r =>
      rw [recordsOf_cons_enqueue, List.append_cons]
      rfl
    | close => rfl

theorem State.arriveEarly_irq (s : State) : s.arriveEarly.irq = s.irq ++ recordsOf s.earlyEvents := s.arriveAll_irq _

theorem State.arriveLate_irq (s : State) : s.arriveLate.irq = s.irq ++ recordsOf s.lateEvents := s.arriveAll_irq _

section
variable {s t u : State}

theorem State.lateEvents_congr (h : t.inputs = s.inputs) : t.lateEvents = s.lateEvents := by
  rw [lateEvents, lateEvents, h]

/-! ### The end of a cycle -/

/-- The delivery step takes the head of the queue, where there is one, and leaves the schedule. -/
theorem updateInterrupts_queue (h : updateInterrupts s = .next t) : t.irq = s.irq.tail ∧ t.inputs = s.inputs := by
  obtain ⟨_, ⟨hempty, rfl⟩ | ⟨r, rest, hqueue, htake⟩⟩ := updateInterrupts_eq_next.1 h
  · exact ⟨by rw [hempty, List.tail_nil], rfl⟩
  · obtain ⟨_, _, hirq, _, hinputs⟩ := (takeInterrupt_stores htake).keepsOutside
    exact ⟨by rw [hqueue, List.tail_cons, hirq, State.withQueue_irq], hinputs⟩

@[simp] theorem State.settleStatus_irq (s : State) : s.settleStatus.irq = s.irq := by
  unfold settleStatus
  split <;> rfl

@[simp] theorem State.settleStatus_inputs (s : State) : s.settleStatus.inputs = s.inputs := by
  unfold settleStatus
  split <;> rfl

/-- The end of a cycle appends the late arrivals, then takes the head, and moves the schedule on. -/
theorem endCycle_queue (h : endCycle s = .next t) :
    t.irq = (s.irq ++ recordsOf s.lateEvents).tail ∧ t.inputs = s.inputs.tail := by
  obtain ⟨u, hupdate, rfl⟩ := endCycle_eq_next.1 h
  obtain ⟨hirq, hinputs⟩ := updateInterrupts_queue hupdate
  rw [State.settleStatus_irq, State.settleStatus_inputs, hirq, hinputs, State.arriveLate_irq, State.arriveLate_inputs]
  exact ⟨rfl, rfl⟩

/-- A cycle whose fetch enqueued `o`, and whose instruction, if it had one, completed, ends with the queue of
`StepTakesAtMostTheOldestRecord`. -/
theorem endCycle_queue_of_fetched {o : List Record} (hirq : u.irq = s.arriveEarly.irq ++ o)
    (hinputs : u.inputs = s.arriveEarly.inputs) (h : endCycle u = .next t) :
    t.irq = (s.irq ++ recordsOf s.earlyEvents ++ o ++ recordsOf s.lateEvents).tail ∧ t.inputs = s.inputs.tail := by
  have hschedule : u.inputs = s.inputs := hinputs.trans s.arriveEarly_inputs
  have hend := endCycle_queue h
  rwa [hirq, State.arriveEarly_irq, State.lateEvents_congr hschedule, hschedule] at hend

end

/-- Settles O54: the early arrivals, the overrun record of the fetch and the late arrivals are appended in that order,
an instruction appends nothing, and the delivery step takes the head. -/
theorem stepTakesAtMostTheOldestRecord : Obligations.StepTakesAtMostTheOldestRecord := by
  intro s t h
  obtain ⟨hs, hcycle⟩ := step_eq_next.1 h
  unfold cycle at hcycle
  obtain ⟨i, u, hfetch, hkeeps⟩ | ⟨u, hfetch, hkeeps⟩ | ⟨header, u, hfetch, _⟩ := fetchInstr_cases s.arriveEarly
  all_goals rw [hfetch] at hcycle
  case inl =>
    obtain ⟨v, hexec, hend⟩ := andThen_eq_next.1 hcycle
    obtain ⟨⟨_, _, hirq, _, hinputs⟩, _⟩ := completedInstructionKeepsQueueAndLatches i u v hexec
    exact ⟨[], .inl rfl, endCycle_queue_of_fetched (hirq.trans hkeeps.irq) (hinputs.trans hkeeps.inputs) hend⟩
  case inr.inl =>
    have hstatus : u.status = .running := hkeeps.status.trans (s.arriveEarly_status.trans hs)
    exact ⟨[codeOverrun], .inr ⟨rfl, runFetched_overrun_status hcycle hstatus⟩,
      endCycle_queue_of_fetched (u := u.stopRunning) hkeeps.irq hkeeps.inputs hcycle⟩
  case inr.inr =>
    exact absurd hcycle (fatal_ne_next _ _ _)

end Sys2Proof.Machine
end

section
/-! The exceptions family: a push without room (60_exceptions.md R189; 92_eei_decisions.md D9). -/

namespace Sys2Proof.Machine

open Claims

section
variable {s : State} (h : ¬ pushFits s)
include h

theorem stackPush_of_not_fits (v : Word) : stackPush v s = overflowed s := if_pos (Nat.lt_of_not_le h)

/-- A CALL past its target fails as its push does. -/
theorem call_of_not_fits (t : Word) :
    (andThen (stackPush s.cp s) fun pushed => .next (pushed.setCp t)) = overflowed s := by
  rw [stackPush_of_not_fits h]
  rfl

end

/-- Settles O24: the operand of mode R is resolved, and then the push of PUSH or CALL overflows. -/
theorem pushAndCallOverflowIsFatal : Obligations.PushAndCallOverflowIsFatal := by
  refine fun a s h => ⟨stackPush_of_not_fits h a, call_of_not_fits h a, fun ha => ⟨?_, ?_⟩⟩
  · show pushValue .r a s = _
    rw [pushValue, operandValue_r_of_fits ha, stackPush_of_not_fits h]
  · show callTo .r a s = _
    rw [callTo, operandValue_r_of_fits ha, call_of_not_fits h]

end Sys2Proof.Machine
end

section
/-! The exceptions family: how an instruction can fail, and that nothing is refused (60_exceptions.md R189, R190, R195;
20_memory.md R55; 40_engine.md R119). -/

namespace Sys2Proof.Machine

open Claims

/-- A next state, or a fatal error of one of these kinds; never a refusal. -/
inductive StopsOnlyAs (kinds : FatalKind → Prop) : Out → Prop
  | next (s : State) : StopsOnlyAs kinds (.next s)
  | fatalError {kind : FatalKind} (h : kinds kind) (s : State) :
    StopsOnlyAs kinds (.fault (.fatalError kind (s.failed kind)))

section
variable {kinds : FatalKind → Prop} {o : Out}

theorem StopsOnlyAs.ne_refused (h : StopsOnlyAs kinds o) (r : Refusal) : o ≠ .refused r := by
  rintro rfl
  cases h

/-- A fault is a fatal error whose state is marked with its kind (R119). -/
theorem StopsOnlyAs.eq_fatalError {f : Fault} (h : StopsOnlyAs kinds o) (hf : o = .fault f) :
    ∃ kind left, f = .fatalError kind left ∧ left.status = .fatal kind ∧ left.running = false ∧ kinds kind := by
  subst hf
  cases h with
  | fatalError hkind s => exact ⟨_, _, rfl, rfl, rfl, hkind⟩

theorem StopsOnlyAs.mono {kinds' : FatalKind → Prop} (h : StopsOnlyAs kinds o)
    (hle : ∀ kind, kinds kind → kinds' kind) : StopsOnlyAs kinds' o := by
  cases h with
  | next s => exact .next s
  | fatalError hkind s => exact .fatalError (hle _ hkind) s

/-! ### The shared operations -/

theorem fatal_stopsOnlyAs {kind : FatalKind} (h : kinds kind) (s : State) : StopsOnlyAs kinds (fatal kind s) :=
  .fatalError h s

theorem andThen_stopsOnlyAs {k : State → Out} (h : StopsOnlyAs kinds o) (hk : ∀ u, StopsOnlyAs kinds (k u)) :
    StopsOnlyAs kinds (andThen o k) := by
  cases h with
  | next u => exact hk u
  | fatalError hkind s => exact .fatalError hkind s

/-- A push fails for want of room alone. -/
theorem stackPush_stopsOnlyAs (h : kinds .stackOverflow) (v : Word) (s : State) :
    StopsOnlyAs kinds (stackPush v s) := by
  by_cases hfits : pushFits s
  · rw [stackPush_of_fits hfits]
    exact .next _
  · rw [stackPush_of_not_fits hfits]
    exact .fatalError h (s.raise stackOverrun)

section
variable (htop : kinds (.outOfRange 0xFFFF)) {s : State} {k : Word → Out}
include htop

/-- A word read fails at 0xFFFF alone. -/
theorem withWord_stopsOnlyAs {a : Word} (hk : ∀ v, StopsOnlyAs kinds (k v)) : StopsOnlyAs kinds (withWord a s k) := by
  by_cases ha : a = 0xFFFF
  · rw [ha, withWord_top]
    exact fatal_stopsOnlyAs htop s
  · rw [withWord_of_fits ha]
    exact hk _

/-- A word store fails at 0xFFFF alone. -/
theorem storeWord_stopsOnlyAs {a v : Word} : StopsOnlyAs kinds (storeWord a v s) := by
  by_cases ha : a = 0xFFFF
  · rw [ha, storeWord_top]
    exact fatal_stopsOnlyAs htop s
  · rw [storeWord_of_fits ha]
    exact .next _

theorem storeResult_stopsOnlyAs {a r zf cf : Word} : StopsOnlyAs kinds (storeResult a r zf cf s) :=
  andThen_stopsOnlyAs (storeWord_stopsOnlyAs htop) fun _ => .next _

theorem binaryOperands_stopsOnlyAs {mode : Mode} {a b : Word} {k : Word → Word → Out}
    (hk : ∀ v1 v2, StopsOnlyAs kinds (k v1 v2)) : StopsOnlyAs kinds (binaryOperands mode a b s k) := by
  refine withWord_stopsOnlyAs htop fun v1 => ?_
  split
  · exact withWord_stopsOnlyAs htop fun v2 => hk v1 v2
  · exact hk v1 b

theorem operandValue_stopsOnlyAs {kind : ValueKind} {a : Word} (hk : ∀ v, StopsOnlyAs kinds (k v)) :
    StopsOnlyAs kinds (operandValue kind a s k) := by
  cases kind with
  | i => exact hk a
  | r => exact withWord_stopsOnlyAs htop hk

theorem sourceValue_stopsOnlyAs {kind : OperandKind} {a : Word} (hk : ∀ v, StopsOnlyAs kinds (k v)) :
    StopsOnlyAs kinds (sourceValue kind a s k) := by
  cases kind with
  | i => exact hk a
  | r => exact withWord_stopsOnlyAs htop hk
  | a => exact withWord_stopsOnlyAs htop fun _ => withWord_stopsOnlyAs htop hk

theorem targetAddress_stopsOnlyAs {kind : TargetKind} {a : Word} (hk : ∀ v, StopsOnlyAs kinds (k v)) :
    StopsOnlyAs kinds (targetAddress kind a s k) := by
  cases kind with
  | r => exact hk a
  | a => exact withWord_stopsOnlyAs htop hk

theorem stackPop_stopsOnlyAs {k : Word → State → Out} (hk : ∀ v u, StopsOnlyAs kinds (k v u)) :
    StopsOnlyAs kinds (stackPop s k) := by
  rw [stackPop_eq_withWord]
  exact withWord_stopsOnlyAs htop fun v => hk v _

/-! ### The instructions -/

/-- A binary instruction with a result, past its operands. -/
theorem binaryResult_stopsOnlyAs {mode : Mode} {a b : Word} (x : Word → Word → Int) (carryKind : Bool) :
    StopsOnlyAs kinds (binaryOperands mode a b s fun v1 v2 => writeResult a (x v1 v2) carryKind s) :=
  binaryOperands_stopsOnlyAs htop fun _ _ => storeResult_stopsOnlyAs htop

theorem compareWords_stopsOnlyAs (rel : Word → Word → Bool) {mode : Mode} {a b : Word} :
    StopsOnlyAs kinds (compareWords rel mode a b s) :=
  binaryOperands_stopsOnlyAs htop fun _ _ => storeResult_stopsOnlyAs htop

section
variable {mode : Mode} {a b : Word}

theorem addWords_stopsOnlyAs : StopsOnlyAs kinds (addWords mode a b s) := binaryResult_stopsOnlyAs htop _ _
theorem subWords_stopsOnlyAs : StopsOnlyAs kinds (subWords mode a b s) := binaryResult_stopsOnlyAs htop _ _
theorem mulWords_stopsOnlyAs : StopsOnlyAs kinds (mulWords mode a b s) := binaryResult_stopsOnlyAs htop _ _
theorem andWords_stopsOnlyAs : StopsOnlyAs kinds (andWords mode a b s) := binaryResult_stopsOnlyAs htop _ _
theorem orWords_stopsOnlyAs : StopsOnlyAs kinds (orWords mode a b s) := binaryResult_stopsOnlyAs htop _ _
theorem xorWords_stopsOnlyAs : StopsOnlyAs kinds (xorWords mode a b s) := binaryResult_stopsOnlyAs htop _ _
theorem shlWords_stopsOnlyAs : StopsOnlyAs kinds (shlWords mode a b s) := binaryResult_stopsOnlyAs htop _ _
theorem shrWords_stopsOnlyAs : StopsOnlyAs kinds (shrWords mode a b s) := binaryResult_stopsOnlyAs htop _ _
theorem cmpWords_stopsOnlyAs : StopsOnlyAs kinds (cmpWords mode a b s) := compareWords_stopsOnlyAs htop _
theorem cntWords_stopsOnlyAs : StopsOnlyAs kinds (cntWords mode a b s) := compareWords_stopsOnlyAs htop _
theorem lgeWords_stopsOnlyAs : StopsOnlyAs kinds (lgeWords mode a b s) := compareWords_stopsOnlyAs htop _
theorem smeWords_stopsOnlyAs : StopsOnlyAs kinds (smeWords mode a b s) := compareWords_stopsOnlyAs htop _

end

theorem divWords_stopsOnlyAs (hzero : kinds .divideByZero) {mode : Mode} {a b : Word} :
    StopsOnlyAs kinds (divWords mode a b s) := by
  refine binaryOperands_stopsOnlyAs htop fun v1 v2 => ?_
  split
  · exact fatal_stopsOnlyAs hzero s
  · exact storeResult_stopsOnlyAs htop

/-- A unary instruction with a result, past its operand. -/
theorem unaryResult_stopsOnlyAs {a : Word} (x : Word → Int) (carryKind : Bool) :
    StopsOnlyAs kinds (unaryOperand a s fun v => writeResult a (x v) carryKind s) :=
  withWord_stopsOnlyAs htop fun _ => storeResult_stopsOnlyAs htop

theorem incWord_stopsOnlyAs {a : Word} : StopsOnlyAs kinds (incWord a s) := unaryResult_stopsOnlyAs htop _ _
theorem decWord_stopsOnlyAs {a : Word} : StopsOnlyAs kinds (decWord a s) := unaryResult_stopsOnlyAs htop _ _
theorem notWord_stopsOnlyAs {a : Word} : StopsOnlyAs kinds (notWord a s) := unaryResult_stopsOnlyAs htop _ _

theorem moveWord_stopsOnlyAs {src : OperandKind} {dst : TargetKind} {a b : Word} :
    StopsOnlyAs kinds (moveWord src dst a b s) :=
  sourceValue_stopsOnlyAs htop fun _ => targetAddress_stopsOnlyAs htop fun _ => storeWord_stopsOnlyAs htop

theorem pushValue_stopsOnlyAs (hfull : kinds .stackOverflow) {kind : ValueKind} {a : Word} :
    StopsOnlyAs kinds (pushValue kind a s) :=
  operandValue_stopsOnlyAs htop fun v => stackPush_stopsOnlyAs hfull v s

theorem popTo_stopsOnlyAs {a : Word} : StopsOnlyAs kinds (popTo a s) :=
  stackPop_stopsOnlyAs htop fun _ _ => storeWord_stopsOnlyAs htop

theorem jumpIfZero_stopsOnlyAs {kind : ValueKind} {a : Word} : StopsOnlyAs kinds (jumpIfZero kind a s) :=
  operandValue_stopsOnlyAs htop fun _ => .next _

theorem jumpTo_stopsOnlyAs {kind : ValueKind} {a : Word} : StopsOnlyAs kinds (jumpTo kind a s) :=
  operandValue_stopsOnlyAs htop fun _ => .next _

theorem callTo_stopsOnlyAs (hfull : kinds .stackOverflow) {kind : ValueKind} {a : Word} :
    StopsOnlyAs kinds (callTo kind a s) :=
  operandValue_stopsOnlyAs htop fun _ =>
    andThen_stopsOnlyAs (stackPush_stopsOnlyAs hfull _ s) fun _ => .next _

theorem returnToCaller_stopsOnlyAs : StopsOnlyAs kinds (returnToCaller s) :=
  stackPop_stopsOnlyAs htop fun _ _ => .next _

end

end

/-- The kinds of fatal error R190 has for an instruction of this opcode. -/
def InstructionKind (op : Opcode) (kind : FatalKind) : Prop :=
  kind = .outOfRange 0xFFFF ∨ kind = .stackOverflow ∧ op ∈ [Opcode.push, .call] ∨
    kind = .divideByZero ∧ op = .div

theorem instructionKind_outOfRange (op : Opcode) : InstructionKind op (.outOfRange 0xFFFF) := .inl rfl

theorem instructionKind_stackOverflow {op : Opcode} (h : op ∈ [Opcode.push, .call]) :
    InstructionKind op .stackOverflow := .inr (.inl ⟨rfl, h⟩)

theorem instructionKind_divideByZero : InstructionKind .div .divideByZero := .inr (.inr ⟨rfl, rfl⟩)

/-- An instruction completes or stops as R190 says. -/
theorem exec_stopsOnlyAs (i : Instr) (s : State) : StopsOnlyAs (InstructionKind i.fields.1) (exec i s) := by
  have htop := instructionKind_outOfRange i.fields.1
  cases i with
  | addRR | addRI | addRA | addAA | addAR | addIA | addIR | addII | addAI =>
    exact addWords_stopsOnlyAs htop
  | subRR | subRI | subRA | subAA | subAR | subIA | subIR | subII | subAI =>
    exact subWords_stopsOnlyAs htop
  | mulRR | mulRI | mulRA | mulAA | mulAR | mulIA | mulIR | mulII | mulAI =>
    exact mulWords_stopsOnlyAs htop
  | divRR | divRI | divRA | divAA | divAR | divIA | divIR | divII | divAI =>
    exact divWords_stopsOnlyAs htop instructionKind_divideByZero
  | andRR | andRI | andRA | andAA | andAR | andIA | andIR | andII | andAI =>
    exact andWords_stopsOnlyAs htop
  | orRR | orRI | orRA | orAA | orAR | orIA | orIR | orII | orAI =>
    exact orWords_stopsOnlyAs htop
  | xorRR | xorRI | xorRA | xorAA | xorAR | xorIA | xorIR | xorII | xorAI =>
    exact xorWords_stopsOnlyAs htop
  | shlRR | shlRI | shlRA | shlAA | shlAR | shlIA | shlIR | shlII | shlAI =>
    exact shlWords_stopsOnlyAs htop
  | shrRR | shrRI | shrRA | shrAA | shrAR | shrIA | shrIR | shrII | shrAI =>
    exact shrWords_stopsOnlyAs htop
  | cmpRR | cmpRI | cmpRA | cmpAA | cmpAR | cmpIA | cmpIR | cmpII | cmpAI =>
    exact cmpWords_stopsOnlyAs htop
  | cntRR | cntRI | cntRA | cntAA | cntAR | cntIA | cntIR | cntII | cntAI =>
    exact cntWords_stopsOnlyAs htop
  | lgeRR | lgeRI | lgeRA | lgeAA | lgeAR | lgeIA | lgeIR | lgeII | lgeAI =>
    exact lgeWords_stopsOnlyAs htop
  | smeRR | smeRI | smeRA | smeAA | smeAR | smeIA | smeIR | smeII | smeAI =>
    exact smeWords_stopsOnlyAs htop
  | incI | incR | incA => exact incWord_stopsOnlyAs htop
  | decI | decR | decA => exact decWord_stopsOnlyAs htop
  | notI | notR | notA => exact notWord_stopsOnlyAs htop
  | movRR => exact moveWord_stopsOnlyAs htop (src := .r) (dst := .r)
  | movRA => exact moveWord_stopsOnlyAs htop (src := .r) (dst := .a)
  | movAA => exact moveWord_stopsOnlyAs htop (src := .a) (dst := .a)
  | movAR => exact moveWord_stopsOnlyAs htop (src := .a) (dst := .r)
  | movIA => exact moveWord_stopsOnlyAs htop (src := .i) (dst := .a)
  | movIR => exact moveWord_stopsOnlyAs htop (src := .i) (dst := .r)
  | pushI => exact pushValue_stopsOnlyAs htop (kind := .i) (instructionKind_stackOverflow (.head _))
  | pushR => exact pushValue_stopsOnlyAs htop (kind := .r) (instructionKind_stackOverflow (.head _))
  | popI | popR | popA => exact popTo_stopsOnlyAs htop
  | jifI => exact jumpIfZero_stopsOnlyAs htop (kind := .i)
  | jifR => exact jumpIfZero_stopsOnlyAs htop (kind := .r)
  | jmpI => exact jumpTo_stopsOnlyAs htop (kind := .i)
  | jmpR => exact jumpTo_stopsOnlyAs htop (kind := .r)
  | callI => exact callTo_stopsOnlyAs htop (kind := .i) (instructionKind_stackOverflow (.tail _ (.head _)))
  | callR => exact callTo_stopsOnlyAs htop (kind := .r) (instructionKind_stackOverflow (.tail _ (.head _)))
  | ret => exact returnToCaller_stopsOnlyAs htop
  | hlt => exact .next _

/-- Settles O38: each operation an instruction is made of stops only as its opcode may. -/
theorem instructionFaultsAreTheSpecsKinds : Obligations.InstructionFaultsAreTheSpecsKinds :=
  fun i s _ => (exec_stopsOnlyAs i s).eq_fatalError

/-! ### The cycle -/

/-- A next state or some fatal error. -/
abbrev Answers (o : Out) : Prop := StopsOnlyAs (fun _ => True) o

theorem updateInterrupts_answers (s : State) : Answers (updateInterrupts s) := by
  unfold updateInterrupts
  split
  · exact fatal_stopsOnlyAs trivial s
  · split
    · exact .next s
    · exact andThen_stopsOnlyAs (stackPush_stopsOnlyAs trivial _ _) fun _ => .next _

theorem endCycle_answers (s : State) : Answers (endCycle s) :=
  andThen_stopsOnlyAs (updateInterrupts_answers _) fun _ => .next _

theorem runFetched_answers (f : Fetched) : Answers (runFetched f) := by
  cases f with
  | decoded i s => exact andThen_stopsOnlyAs ((exec_stopsOnlyAs i s).mono fun _ _ => trivial) endCycle_answers
  | overrun s => exact endCycle_answers _
  | illegal header s => exact fatal_stopsOnlyAs trivial s

/-- Settles O39: a Running machine's cycle completes or ends in a fatal error, and a stopped machine's step is the
fault notRunning. -/
theorem nothingIsRefused : Obligations.NothingIsRefused := by
  refine ⟨fun i s => (exec_stopsOnlyAs i s).ne_refused, fun s r h => ?_⟩
  by_cases hs : s.status = .running
  · rw [step, hs] at h
    exact (runFetched_answers _).ne_refused r h
  · rw [stoppedMachineTakesNoStep s hs] at h
    cases h

end Sys2Proof.Machine
end

section
/-! The exceptions family: the delivery of a record, and the RET that resumes after it (60_exceptions.md R184, R185,
R192, R193, R202). -/

namespace Sys2Proof.Machine

open Claims

theorem Reason.cell_bounds (r : Reason) : 0x0012 ≤ r.cell.toNat ∧ r.cell.toNat ≤ 0x0016 := by
  cases r <;> decide

section
variable {s t u : State} {a : Word} {r : Record} {rest : List Record}

/-- A word none of whose bytes a frame lists reads as before. -/
theorem word_eq_of_keepsBytesBut {xs : List Nat} (h : keepsBytesBut xs s t) (hhigh : a.toNat ∉ xs)
    (hlow : a.toNat + 1 ∉ xs) : t.word a = s.word a :=
  Memory.wordAt_congr (h _ hhigh) (h _ hlow)

/-- A push leaves a word between SP's and the new top. -/
theorem afterPush_word_below (h : pushFits s) (v : Word) (habove : 4 ≤ a.toNat) (hbelow : a.toNat ≤ s.sp.toNat) :
    (afterPush s v).word a = s.word a := by
  have htop := toNat_sp_add_two h
  exact (State.word_putWord_disjoint _ v (.inl (by omega))).trans (s.word_setSp_of_le _ habove)

/-- A return leaves a word between SP's and the popped one. -/
theorem returnToCaller_word_below (h : returnToCaller t = .next u) (habove : 4 ≤ a.toNat)
    (hbelow : a.toNat + 1 < t.sp.toNat) : u.word a = t.word a := by
  have hcp : (0x0000 : Word).toNat = 0 := rfl
  have hsp : (0x0002 : Word).toNat = 2 := rfl
  obtain ⟨hframe, _⟩ := returnToCaller_frame h
  refine word_eq_of_keepsBytesBut hframe ?_ ?_ <;>
    simp only [bytesOf, hcp, hsp, List.mem_append, List.mem_cons, List.not_mem_nil, or_false, not_or] <;>
    omega

/-- A delivery answers a next state where its push has room. -/
theorem takeInterrupt_of_fits (h : pushFits s) (r : Record) (rest : List Record) :
    ∃ t, takeInterrupt r rest s = .next t :=
  ⟨_, takeInterrupt_eq_next.2 ⟨_, stackPush_of_fits (s := s.withQueue rest) h s.cp, rfl⟩⟩

/-- All that a delivery stores: CP, SP, INTERRUPT and the new top. -/
theorem takeInterrupt_keepsBytesBut (h : takeInterrupt r rest s = .next t) :
    keepsBytesBut (bytesOf 0x0000 ++ bytesOf 0x0002 ++ bytesOf 0x0010 ++ bytesOf (s.sp + 2)) s t := by
  obtain ⟨u, hpush, rfl⟩ := takeInterrupt_eq_next.1 h
  obtain ⟨_, rfl⟩ := stackPush_eq_afterPush.1 hpush
  have hcoded := keepsBytesBut_trans (afterPush_keepsBytesBut (s.withQueue rest) s.cp)
    (State.putWord_keepsBytesBut _ interruptCell r.code)
  refine keepsBytesBut_mono (setCp_keepsBytesBut hcoded _) fun x hx => ?_
  simp only [List.mem_append] at hx ⊢
  tauto

/-- A delivery at or above STACK_BASE leaves SP two higher, the old CP at the new top, the code in INTERRUPT and the
word of the handler cell in CP. -/
theorem takeInterrupt_at_base (hlow : 0x0100 ≤ s.sp.toNat) (h : takeInterrupt r rest s = .next t) :
    pushFits s ∧ t.sp = s.sp + 2 ∧ t.word (s.sp + 2) = s.cp ∧ t.word 0x0010 = r.code ∧
      t.cp = s.word r.reason.cell := by
  obtain ⟨u, hpush, rfl⟩ := takeInterrupt_eq_next.1 h
  obtain ⟨hfits, rfl⟩ := stackPush_eq_afterPush.1 hpush
  have hcell := toNat_sp_add_two (s := s) hfits
  have hinterrupt : interruptCell.toNat = 0x0010 := rfl
  obtain ⟨hfirst, hlast⟩ := r.reason.cell_bounds
  refine ⟨hfits, ?_, ?_, ?_, ?_⟩
  · rw [State.sp_setCp, State.sp_putWord_of_disjoint _ _ (by omega)]
    exact afterPush_sp (s := s.withQueue rest) hlow hfits s.cp
  · rw [State.word_setCp_of_le _ _ (by omega), State.word_putWord_disjoint _ _ (by omega)]
    exact afterPush_word_top (s := s.withQueue rest) hfits s.cp
  · rw [State.word_setCp_of_le _ _ (by decide)]
    exact State.word_putWord_self _ (by decide) _
  · rw [State.cp_setCp, State.word_putWord_disjoint _ _ (by omega)]
    exact afterPush_word_below (s := s.withQueue rest) hfits s.cp (by omega) (show _ ≤ s.sp.toNat by omega)

/-- With an open queue the delivery step is the entry into the handler of the oldest record. -/
theorem updateInterrupts_of_cons (hopen : s.irqClosed = false) (hqueue : s.irq = r :: rest) :
    updateInterrupts s = takeInterrupt r rest s := by
  simp [updateInterrupts, hopen, hqueue]

end

/-- Settles O51: the delivery has room, is word stores on the state without the record, and leaves what
`takeInterrupt_at_base` says in the four words it stores to. -/
theorem deliveryPushesCpAndJumpsThroughTheCell : Obligations.DeliveryPushesCpAndJumpsThroughTheCell := by
  intro r rest s hopen hqueue hlow hfits
  obtain ⟨t, htake⟩ := takeInterrupt_of_fits hfits r rest
  obtain ⟨_, hsp, htop, hcode, hcp⟩ := takeInterrupt_at_base hlow htake
  have hstores := takeInterrupt_stores htake
  obtain ⟨hlatches, hstatus, hirq, hclosed, hinputs⟩ := hstores.keepsOutside
  refine ⟨t, (updateInterrupts_of_cons hopen hqueue).trans htake, hsp, htop, hcode, ?_, hirq, hclosed.trans hopen,
    hlatches, hstatus, hstores.running, hinputs, takeInterrupt_keepsBytesBut htake⟩
  rw [hcp]
  cases r.reason <;> rfl

/-- Settles O53: the cell the delivery pushed to is the one RET pops, CP and SP read after RET as before the delivery,
and RET leaves INTERRUPT. -/
theorem retFromHandlerResumes : Obligations.RetFromHandlerResumes := by
  intro r rest s t hlow htake
  obtain ⟨hfits, hsp, htop, hcode, _⟩ := takeInterrupt_at_base hlow htake
  have hcell := toNat_sp_add_two hfits
  have hbase : 0x0100 < t.sp.toNat := by
    rw [hsp]
    omega
  obtain ⟨u, hret, hcpBack, hspBack, hcleared⟩ :=
    returnToCaller_above_base hbase (hsp ▸ sp_add_two_ne_top hfits)
  obtain ⟨hretFrame, _⟩ := returnToCaller_frame hret
  rw [hsp] at hretFrame hcpBack hspBack hcleared
  rw [htop] at hcpBack
  rw [BitVec.add_sub_cancel] at hspBack
  have hinterrupt : u.word 0x0010 = t.word 0x0010 :=
    returnToCaller_word_below hret (by decide) (show 0x0011 < t.sp.toNat by omega)
  have hframe : keepsBytesBut (bytesOf 0x0000 ++ (bytesOf 0x0002 ++ (bytesOf 0x0010 ++ bytesOf (s.sp + 2)))) s u := by
    refine keepsBytesBut_mono (keepsBytesBut_trans (takeInterrupt_keepsBytesBut htake) hretFrame) fun x hx => ?_
    simp only [List.mem_append] at hx ⊢
    tauto
  exact ⟨u, hret, hcpBack, hspBack, hinterrupt.trans hcode, hcleared,
    keepsBytesBut_of_word_eq (keepsBytesBut_of_word_eq hframe hcpBack) hspBack⟩

end Sys2Proof.Machine
end

section
/-! The exceptions family: a header fetch that overruns (60_exceptions.md R188; 92_eei_decisions.md D10, D11, D13). -/

namespace Sys2Proof.Machine

open Claims

section
variable {s : State}

/-! ### A cycle with nothing scheduled -/

theorem State.arriveEarly_of_inputs_nil (h : s.inputs = []) : s.arriveEarly = s := by
  rw [arriveEarly, earlyEvents, h]
  rfl

theorem State.arriveLate_of_inputs_nil (h : s.inputs = []) : s.arriveLate = s := by
  rw [arriveLate, lateEvents, h]
  exact congrArg (fun is => { s with inputs := is }) (show s.inputs.tail = s.inputs by rw [h]; rfl)

theorem State.settleStatus_of_not_running (h : s.running = false) : s.settleStatus = { s with status := .halted } :=
  if_neg (by simp [h])

/-- The end of a cycle that nothing arrives in and that is not to go on: the delivery step, and then the machine is
Halted. -/
theorem endCycle_of_inputs_nil {t : State} (hinputs : s.inputs = []) (h : updateInterrupts s = .next t)
    (hrun : t.running = false) : endCycle s = .next { t with status := .halted } := by
  refine endCycle_eq_next.2 ⟨t, ?_, State.settleStatus_of_not_running hrun⟩
  rw [State.arriveLate_of_inputs_nil hinputs, h]

/-! ### The overrun -/

/-- What an overrunning header fetch leaves for steps 4 to 6: the record enqueued, the sentinel latched, `running`
cleared (R101, R104). -/
def State.headerOverrun (s : State) : State := ((s.raise codeOverrun).latchWord haltWord).stopRunning

theorem fetchInstr_of_gt (h : fetchLimit < s.cp.toNat) :
    fetchInstr s = .overrun ((s.raise codeOverrun).latchWord haltWord) := by
  rw [fetchInstr, fetchWord_of_gt h]

theorem step_of_header_overrun (hs : s.status = .running) (hcp : fetchLimit < s.cp.toNat) (hinputs : s.inputs = []) :
    step s = endCycle s.headerOverrun := by
  rw [step, hs]
  show runFetched (fetchInstr s.arriveEarly) = _
  rw [State.arriveEarly_of_inputs_nil hinputs, fetchInstr_of_gt hcp]
  rfl

end

/-- Settles O46: past the overrun the cycle is the delivery of its own record, and the settling of the status. -/
theorem headerOverrunHaltsThroughTheQueue : Obligations.HeaderOverrunHaltsThroughTheQueue := by
  intro s hs hcp hlow hhigh hempty hopen hinputs
  have hqueue : s.headerOverrun.irq = codeOverrun :: [] := congrArg (· ++ [codeOverrun]) hempty
  have hfits : pushFits s.headerOverrun := Nat.add_le_add_right hhigh 2
  obtain ⟨t, hdeliver, hsp, htop, hcode, hhandler, hirq, _, hlatches, _, hrunning, _, hbytes⟩ :=
    deliveryPushesCpAndJumpsThroughTheCell codeOverrun [] s.headerOverrun hopen hqueue hlow hfits
  have hend := endCycle_of_inputs_nil (s := s.headerOverrun) hinputs hdeliver hrunning
  exact ⟨_, (step_of_header_overrun hs hcp hinputs).trans hend, rfl, hrunning, hirq, hsp, htop, hcode, hhandler,
    hlatches, hbytes⟩

end Sys2Proof.Machine
end

section
/-! The exceptions family: the display step (40_engine.md R117; 60_exceptions.md R196). -/

namespace Sys2Proof.Machine

theorem Memory.length_segment (m : Memory) (start stop : Nat) : (m.segment start stop).length = stop - start := by
  simp [segment]

theorem Memory.getElem?_segment (m : Memory) {start stop k : Nat} (h : k < stop - start) :
    (m.segment start stop)[k]? = some (m.byteAt (start + k)) := by
  simp [segment, h]

/-- Settles O58: the bytes drawn are the segment of memory from OUT_CHARS up to OUT_MODE. -/
theorem drawShowsTheFramebuffer : Obligations.DrawShowsTheFramebuffer := by
  intro s
  have hbytes : (draw s).1.bytes = s.mem.segment outChars outMode := by rw [draw]
  have hsize : outMode - outChars = 4094 := rfl
  refine ⟨rfl, rfl, rfl, ?_, fun k hk => ?_⟩
  · rw [hbytes, Memory.length_segment, hsize]
  · rw [hbytes, Memory.getElem?_segment _ (by rwa [hsize])]
    rfl

end Sys2Proof.Machine
end

section
/-! The hazards family: the cycle in which a queued record is delivered (70_reset_and_hazards.md R225; 60_exceptions.md
R185). -/

namespace Sys2Proof.Machine

open Claims

section
variable {s t : State} {r : Record} {rest : List Record}

/-- A delivery leaves the record's code in INTERRUPT, wherever its push stored: the code is stored after it (R184). -/
theorem takeInterrupt_word_interrupt (h : takeInterrupt r rest s = .next t) : t.word 0x0010 = r.code := by
  obtain ⟨u, _, rfl⟩ := takeInterrupt_eq_next.1 h
  rw [State.word_setCp_of_le _ _ (by decide)]
  exact u.word_putWord_self (by decide) r.code

@[simp] theorem State.word_settleStatus (s : State) (a : Word) : s.settleStatus.word a = s.word a := by
  unfold settleStatus
  split <;> rfl

/-- The end of a cycle delivers the head of the queue: what arrived late stands behind it. -/
theorem endCycle_delivers_head (hqueue : s.irq = r :: rest) (h : endCycle s = .next t) :
    t.word 0x0010 = r.code ∧ t.irq = rest ++ recordsOf s.lateEvents := by
  have hlate : s.arriveLate.irq = r :: (rest ++ recordsOf s.lateEvents) := by
    rw [State.arriveLate_irq, hqueue, List.cons_append]
  obtain ⟨hirq, _⟩ := endCycle_queue h
  obtain ⟨u, hupdate, rfl⟩ := endCycle_eq_next.1 h
  obtain ⟨hopen, _⟩ := updateInterrupts_eq_next.1 hupdate
  rw [updateInterrupts_of_cons hopen hlate] at hupdate
  rw [hqueue, List.cons_append, List.tail_cons] at hirq
  rw [State.word_settleStatus]
  exact ⟨takeInterrupt_word_interrupt hupdate, hirq⟩

/-- A step that answers a next state ends its cycle with the old queue still at the front: early arrivals and an overrun
record only join its tail. -/
theorem step_ends_cycle_with_queue (h : step s = .next t) : ∃ u more, u.irq = s.irq ++ more ∧ endCycle u = .next t := by
  obtain ⟨_, hcycle⟩ := step_eq_next.1 h
  have hqueue {u : State} {o : List Record} (hu : u.irq = s.arriveEarly.irq ++ o) :
      u.irq = s.irq ++ (recordsOf s.earlyEvents ++ o) := by
    rw [hu, State.arriveEarly_irq, List.append_assoc]
  unfold cycle at hcycle
  obtain ⟨i, u, hfetch, hkeeps⟩ | ⟨u, hfetch, hkeeps⟩ | ⟨header, u, hfetch, _⟩ := fetchInstr_cases s.arriveEarly
  all_goals rw [hfetch] at hcycle
  case inl =>
    obtain ⟨v, hexec, hend⟩ := andThen_eq_next.1 hcycle
    obtain ⟨⟨_, _, hirq, _⟩, _⟩ := completedInstructionKeepsQueueAndLatches i u v hexec
    exact ⟨v, _, hqueue (hirq.trans hkeeps.irq), hend⟩
  case inr.inl =>
    exact ⟨u.stopRunning, _, hqueue hkeeps.irq, hcycle⟩
  case inr.inr =>
    exact absurd hcycle (fatal_ne_next _ _ _)

/-- A step that answers a next state delivered the record that was the oldest (R185). -/
theorem step_delivers_head (hqueue : s.irq = r :: rest) (h : step s = .next t) :
    t.word 0x0010 = r.code ∧ ∃ later, t.irq = rest ++ later := by
  obtain ⟨u, more, hirq, hend⟩ := step_ends_cycle_with_queue h
  rw [hqueue, List.cons_append] at hirq
  obtain ⟨hcode, hrest⟩ := endCycle_delivers_head hirq hend
  exact ⟨hcode, _, hrest.trans (List.append_assoc _ _ _)⟩

end

/-- Settles O55, by induction on the records ahead: each step delivers the oldest, and what arrives meanwhile joins the
records behind r. -/
theorem queuedRecordIsDeliveredInTurn : Obligations.QueuedRecordIsDeliveredInTurn := by
  intro ahead behind r s t hqueue hrun
  induction ahead generalizing s behind with
  | nil =>
    obtain ⟨u, hstep, hdone⟩ := run_succ_eq_next.1 hrun
    obtain rfl : u = t := Host.Outcome.next.inj hdone
    exact step_delivers_head hqueue hstep
  | cons r' ahead ih =>
    obtain ⟨u, hstep, hrest⟩ := run_succ_eq_next.1 hrun
    obtain ⟨_, later, hu⟩ := step_delivers_head (rest := ahead ++ r :: behind) hqueue hstep
    rw [List.append_assoc, List.cons_append] at hu
    obtain ⟨hcode, later', ht⟩ := ih (behind ++ later) u hu hrest
    exact ⟨hcode, later ++ later', by rw [ht, List.append_assoc]⟩

end Sys2Proof.Machine
end

section
/-! The hazards family: a push and the pop that undoes it (70_reset_and_hazards.md R220; 40_engine.md R113, R114). -/

namespace Sys2Proof.Machine

open Claims

section
variable {s t : State}

theorem popTo_of_fits {b : Word} (hsp : s.sp ≠ 0xFFFF) (hb : b ≠ 0xFFFF) :
    popTo b s = .next (s.popped.putWord b (s.word s.sp)) := by
  rw [popTo, stackPop_of_fits hsp, storeWord_of_fits hb]

/-- Above STACK_BASE a pop leaves SP two lower and the cell it read cleared. -/
theorem popped_above_base (hbase : 0x0100 < s.sp.toNat) (hfits : s.sp ≠ 0xFFFF) :
    s.popped.sp = s.sp - 2 ∧ s.popped.word s.sp = 0 := by
  have hpopped : s.popped = (s.putWord s.sp 0x0000).setSp (s.sp - 2) := if_pos hbase
  rw [hpopped, State.sp_setSp, State.word_setSp_of_le _ _ (by omega), s.word_putWord_self hfits]
  exact ⟨rfl, rfl⟩

/-- At or above STACK_BASE a push and the pop after it change nothing but the cell, which is left cleared (R220). -/
theorem popped_afterPush (hlow : 0x0100 ≤ s.sp.toNat) (hfits : pushFits s) (v : Word) :
    (afterPush s v).popped.sp = s.sp ∧ (afterPush s v).popped.word (s.sp + 2) = 0 ∧
      keepsBytesBut (bytesOf (s.sp + 2)) s (afterPush s v).popped := by
  have hcell := toNat_sp_add_two hfits
  have hsp := afterPush_sp hlow hfits v
  have hbase : 0x0100 < (afterPush s v).sp.toNat := by
    rw [hsp]
    omega
  obtain ⟨hspBack, hcleared⟩ := popped_above_base hbase (hsp ▸ sp_add_two_ne_top hfits)
  have hpop := popped_keepsBytesBut (afterPush s v)
  rw [hsp] at hspBack hcleared hpop
  rw [BitVec.add_sub_cancel] at hspBack
  have hframe : keepsBytesBut (bytesOf 0x0002 ++ bytesOf (s.sp + 2)) s (afterPush s v).popped :=
    keepsBytesBut_mono (keepsBytesBut_trans (afterPush_keepsBytesBut s v) hpop) (by simp)
  exact ⟨hspBack, hcleared, keepsBytesBut_of_word_eq hframe hspBack⟩

end

/-- Settles O42: the cell PUSH stored to is the one POP reads and clears, and POP stores to b when its pop is complete. -/
theorem pushThenPopReturnsValue : Obligations.PushThenPopReturnsValue := by
  intro v b s t hlow hpush hb
  obtain ⟨hfits, rfl⟩ := stackPush_eq_afterPush.1 (show stackPush v s = .next t from hpush)
  have hsp := afterPush_sp hlow hfits v
  have hpop : popTo b (afterPush s v) = .next ((afterPush s v).popped.putWord b v) := by
    rw [popTo_of_fits (hsp ▸ sp_add_two_ne_top hfits) hb, hsp, afterPush_word_top hfits]
  exact ⟨_, hpop, popped_afterPush hlow hfits v⟩

end Sys2Proof.Machine
end

section
/-! The engine family: what ZERO_FLAG and CARRY_FLAG read as after an ALU instruction (40_engine.md R109 to R111;
92_eei_decisions.md D17). -/

namespace Sys2Proof.Machine

open Claims

/-- The flag stores come last, so ZERO_FLAG reads as it was stored, whatever the result covers (D17). -/
theorem withResult_word_zf (s : State) (a r zf cf : Word) : (withResult s a r zf cf).word 0x0004 = zf :=
  (State.word_putWord_disjoint _ _ (.inl (by decide))).trans (State.word_putWord_self _ (by decide) zf)

theorem withResult_word_cf (s : State) (a r zf cf : Word) : (withResult s a r zf cf).word 0x0006 = cf :=
  State.word_putWord_self _ (by decide) cf

/-- Both flag words are 0 or 1, and CARRY_FLAG is 0 where no carry can be left. -/
def FlagsRead (carries : Prop) (t : State) : Prop :=
  (t.word 0x0004 = 0 ∨ t.word 0x0004 = 1) ∧ (t.word 0x0006 = 0 ∨ t.word 0x0006 = 1) ∧ (¬ carries → t.word 0x0006 = 0)

theorem flagWord_eq_zero_or_one (b : Bool) : flagWord b = 0 ∨ flagWord b = 1 := by
  cases b
  · exact .inl rfl
  · exact .inr rfl

section
variable {a : Word} {s t : State} {carries : Prop}

theorem withResult_flagsRead (s : State) (a r : Word) (z c : Bool) (hc : ¬ carries → c = false) :
    FlagsRead carries (withResult s a r (flagWord z) (flagWord c)) := by
  rw [FlagsRead, withResult_word_zf, withResult_word_cf]
  exact ⟨flagWord_eq_zero_or_one z, flagWord_eq_zero_or_one c, fun h => by rw [hc h]; rfl⟩

theorem writeResult_flagsRead {x : Int} {carryKind : Bool} (hkind : ¬ carries → carryKind = false)
    (h : writeResult a x carryKind s = .next t) : FlagsRead carries t := by
  obtain ⟨_, rfl⟩ := writeResult_eq_next.1 h
  exact withResult_flagsRead s a _ _ _ fun hc => by rw [hkind hc, Bool.false_and]

theorem writeTruth_flagsRead {holds : Bool} (h : writeTruth a holds s = .next t) : FlagsRead carries t := by
  obtain ⟨_, rfl⟩ := writeTruth_eq_next.1 h
  exact withResult_flagsRead s a _ holds false fun _ => rfl

end

/-! ### The binary instructions (R107) -/

/-- The shared operation an opcode with a destination and a second input names (R130 to R133, R140 to R154). -/
def binaryOperation : Opcode → Option (Mode → Word → Word → State → Out)
  | .add => some addWords
  | .sub => some subWords
  | .mul => some mulWords
  | .div => some divWords
  | .and => some andWords
  | .or => some orWords
  | .xor => some xorWords
  | .shl => some shlWords
  | .shr => some shrWords
  | .cmp => some cmpWords
  | .cnt => some cntWords
  | .lge => some lgeWords
  | .sme => some smeWords
  | .inc | .dec | .not | .mov | .push | .pop | .jif | .jmp | .call | .ret | .hlt => none

/-- Every binary form is the operation of its opcode in its mode. -/
theorem exec_binaryOperation {form : Word → Word → Instr} (h : form ∈ rrForms ++ valueForms) (a b : Word) :
    ∃ op, binaryOperation (form a b).fields.1 = some op ∧ ∀ s, exec (form a b) s = op (form a b).fields.2.1 a b s := by
  fin_cases h <;> exact ⟨_, rfl, fun _ => rfl⟩

/-- Whenever the operation answers a next state, the flags read so there. -/
def SetsFlags (carries : Prop) (op : Mode → Word → Word → State → Out) : Prop :=
  ∀ ⦃m a b s t⦄, op m a b s = .next t → FlagsRead carries t

/-- The flags read so when what follows the operands leaves them so. -/
theorem setsFlags_of_binaryOperands {carries : Prop} {k : Word → State → Word → Word → Out}
    (hk : ∀ a s v1 v2 t, a ≠ 0xFFFF → k a s v1 v2 = .next t → FlagsRead carries t) :
    SetsFlags carries fun m a b s => binaryOperands m a b s (k a s) := by
  intro m a b s t h
  obtain ⟨ha, _, hnext⟩ := binaryOperands_eq_next h
  exact hk _ _ _ _ _ ha hnext

theorem binaryResult_setsFlags {carries : Prop} (x : Word → Word → Int) {carryKind : Bool}
    (hkind : ¬ carries → carryKind = false) :
    SetsFlags carries fun m a b s => binaryOperands m a b s fun v1 v2 => writeResult a (x v1 v2) carryKind s :=
  setsFlags_of_binaryOperands fun _ _ _ _ _ _ => writeResult_flagsRead hkind

theorem compareWords_setsFlags (carries : Prop) (rel : Word → Word → Bool) : SetsFlags carries (compareWords rel) :=
  setsFlags_of_binaryOperands fun _ _ _ _ _ _ => writeTruth_flagsRead

/-- DIV is of carry kind, but no quotient exceeds a word (R133). -/
theorem divWords_setsFlags (carries : Prop) : SetsFlags carries divWords := by
  refine setsFlags_of_binaryOperands fun a s v1 v2 t ha h => ?_
  split at h
  case isTrue => exact absurd h (fatal_ne_next _ _ _)
  case isFalse hdivisor =>
    rw [writeResult_quotient ha hdivisor] at h
    obtain rfl := Host.Outcome.next.inj h
    exact withResult_flagsRead s a _ _ false fun _ => rfl

/-- Only ADD, SUB and MUL can leave a carry. -/
theorem binaryOperation_setsFlags {opcode : Opcode} {op : Mode → Word → Word → State → Out}
    (h : binaryOperation opcode = some op) : SetsFlags (opcode ∈ [Opcode.add, .sub, .mul]) op := by
  cases opcode with
  | add | sub | mul =>
    obtain rfl := Option.some.inj h
    exact binaryResult_setsFlags _ (absurd (by decide))
  | and | or | xor | shl | shr =>
    obtain rfl := Option.some.inj h
    exact binaryResult_setsFlags _ fun _ => rfl
  | cmp | cnt | lge | sme =>
    obtain rfl := Option.some.inj h
    exact compareWords_setsFlags _ _
  | div =>
    obtain rfl := Option.some.inj h
    exact divWords_setsFlags _
  | inc | dec | not | mov | push | pop | jif | jmp | call | ret | hlt => cases h

/-! ### The unary instructions (R108) -/

section
variable {a : Word} {s t : State} {carries : Prop}

theorem unaryResult_flagsRead {x : Word → Int} {carryKind : Bool} (hkind : ¬ carries → carryKind = false)
    (h : unaryOperand a s (fun v1 => writeResult a (x v1) carryKind s) = .next t) : FlagsRead carries t :=
  have ⟨_, hresult⟩ := unaryOperand_eq_next.1 h
  writeResult_flagsRead hkind hresult

theorem incWord_flagsRead (hc : carries) (h : incWord a s = .next t) : FlagsRead carries t :=
  unaryResult_flagsRead (absurd hc) h

theorem decWord_flagsRead (hc : carries) (h : decWord a s = .next t) : FlagsRead carries t :=
  unaryResult_flagsRead (absurd hc) h

theorem notWord_flagsRead (h : notWord a s = .next t) : FlagsRead carries t :=
  unaryResult_flagsRead (fun _ => rfl) h

/-- Only INC and DEC can leave a carry. -/
theorem exec_unaryForms_flagsRead {form : Word → Instr} (hform : form ∈ unaryForms)
    (h : exec (form a) s = .next t) : FlagsRead ((form a).fields.1 ≠ .not) t := by
  simp only [unaryForms, List.mem_cons, List.not_mem_nil, or_false] at hform
  obtain rfl | rfl | rfl | rfl | rfl | rfl | rfl | rfl | rfl := hform
  iterate 3 exact incWord_flagsRead (show Opcode.inc ≠ .not by decide) h
  iterate 3 exact decWord_flagsRead (show Opcode.dec ≠ .not by decide) h
  iterate 3 exact notWord_flagsRead h

end

/-- Settles O40: the two flag words are the last stores of every ALU instruction that completes. -/
theorem flagsReadBackAsZeroOrOne : Obligations.FlagsReadBackAsZeroOrOne := by
  intro a b s t
  refine ⟨fun form hform h => ?_, fun form hform h => ?_⟩
  · obtain ⟨op, hop, hexec⟩ := exec_binaryOperation hform a b
    exact binaryOperation_setsFlags hop ((hexec s).symm.trans h)
  · obtain ⟨hzf, hcf, hclear⟩ := exec_unaryForms_flagsRead hform h
    exact ⟨hzf, hcf, fun hnot => hclear (not_not.2 hnot)⟩

end Sys2Proof.Machine
end

section
/-! The arithmetic family: DIV by 0 (41_arithmetic.md R133; 92_eei_decisions.md D4). -/

namespace Sys2Proof.Machine

/-- Settles O14: past its operands DIV tests the second input before it writes anything. -/
theorem divByZeroIsFatal : Obligations.DivByZeroIsFatal := by
  intro a b s ha stop
  refine ⟨fun hb hzero => ?_, fun form hform hzero => ?_⟩
  · show divWords .rr a b s = _
    rw [divWords, binaryOperands_rr_of_fits ha hb, if_pos hzero]
    rfl
  · rw [divForms_runAs form hform, divWords, binaryOperands_ri_of_fits ha, if_pos hzero]
    rfl

end Sys2Proof.Machine
end

section
/-! The logic family: SHL, SHR and NOT (42_logic.md R143 to R145). -/

namespace Sys2Proof.Machine

open Claims

section
variable {a : Word} {s : State}

/-- A left shift multiplies by a power of two, and from 16 on no bit is left (D6). -/
theorem shiftLeft_eq_mul (v : Word) (n : Nat) :
    v <<< n = if n < 16 then BitVec.ofNat 16 (v.toNat * 2 ^ n) else 0 := by
  split
  case isTrue => exact BitVec.eq_of_toNat_eq (by simp [Nat.shiftLeft_eq])
  case isFalse h => exact BitVec.shiftLeft_eq_zero (Nat.not_lt.1 h)

/-- A logical right shift divides by a power of two, and from 16 on no bit is left (D6). -/
theorem ushiftRight_eq_div (v : Word) (n : Nat) :
    v >>> n = if n < 16 then BitVec.ofNat 16 (v.toNat / 2 ^ n) else 0 := by
  split
  case isTrue =>
    have hle : v.toNat / 2 ^ n < 2 ^ 16 := Nat.lt_of_le_of_lt (Nat.div_le_self _ _) v.isLt
    refine BitVec.eq_of_toNat_eq ?_
    rw [BitVec.toNat_ushiftRight, Nat.shiftRight_eq_div_pow, BitVec.toNat_ofNat, Nat.mod_eq_of_lt hle]
  case isFalse h => exact BitVec.ushiftRight_eq_zero (Nat.not_lt.1 h)

/-- The result store of a left shift (R144). -/
theorem writeResult_shiftLeft (ha : a ≠ 0xFFFF) (v1 v2 : Word) :
    writeResult a (v1 <<< v2.toNat).toNat false s =
      let r := if v2.toNat < 16 then BitVec.ofNat 16 (v1.toNat * 2 ^ v2.toNat) else 0
      .next (withResult s a r (bit (r = 0)) 0) := by
  rw [writeResult_word ha, shiftLeft_eq_mul]

/-- The result store of a right shift (R145). -/
theorem writeResult_ushiftRight (ha : a ≠ 0xFFFF) (v1 v2 : Word) :
    writeResult a (v1 >>> v2.toNat).toNat false s =
      let r := if v2.toNat < 16 then BitVec.ofNat 16 (v1.toNat / 2 ^ v2.toNat) else 0
      .next (withResult s a r (bit (r = 0)) 0) := by
  rw [writeResult_word ha, ushiftRight_eq_div]

/-- NOT reads its word and stores the result 0, whatever it read (R143). -/
theorem notWord_of_fits (ha : a ≠ 0xFFFF) : notWord a s = .next (withResult s a 0 1 0) := by
  rw [notWord, unaryOperand, withWord_of_fits ha]
  exact writeResult_word ha 0

end

/-- Settles O18: each form of SHL and SHR is the result store of a shift. -/
theorem shiftsUseTheWholeCount : Obligations.ShiftsUseTheWholeCount := by
  intro a b s ha
  obtain ⟨hshlRR, hshlForms⟩ := exec_binaryForms (op := shlWords) (rr := .shlRR) (b := b)
    (fun _ _ _ => rfl) shlForms_runAs (fun _ => rfl) ha (writeResult_shiftLeft ha (s.word a))
  obtain ⟨hshrRR, hshrForms⟩ := exec_binaryForms (op := shrWords) (rr := .shrRR) (b := b)
    (fun _ _ _ => rfl) shrForms_runAs (fun _ => rfl) ha (writeResult_ushiftRight ha (s.word a))
  exact ⟨hshlRR, hshlForms, hshrRR, hshrForms⟩

/-- Settles O17: in each of its three modes NOT is `notWord`. -/
theorem notStoresZero : Obligations.NotStoresZero := by
  intro a s ha form hform
  have hexec : exec (form a) s = notWord a s := by fin_cases hform <;> rfl
  rw [hexec, notWord_of_fits ha]

end Sys2Proof.Machine
end

section
/-! The comparison family: CMP, CNT, LGE and SME, and the JIF after one (43_compare.md R150 to R154; 45_control.md R170;
90_conflicts.md C2). -/

namespace Sys2Proof.Machine

open Claims

section
variable {a b : Word} {s t : State}

/-- The store of a truth value: the same word as result and as ZERO_FLAG, and CARRY_FLAG 0 (R150). -/
theorem writeTruth_of_fits (ha : a ≠ 0xFFFF) (holds : Bool) :
    writeTruth a holds s = .next (withResult s a (bit holds) (bit holds) 0) :=
  writeTruth_eq_next.2 ⟨ha, rfl⟩

/-- JIF after a comparison in mode RR that answered a next state jumps exactly when the relation held. -/
theorem jifI_after_compareWords {rel : Word → Word → Bool} (target : Word) (h : compareWords rel .rr a b s = .next t) :
    exec (.jifI target) t = .next (if rel (s.word a) (s.word b) then t.putWord 0x0000 target else t) := by
  obtain ⟨ha, _, htruth⟩ := binaryOperands_eq_next h
  rw [if_pos rfl, writeTruth_of_fits ha] at htruth
  have hzf : t.word 0x0004 = bit (rel (s.word a) (s.word b)) := by
    rw [← Host.Outcome.next.inj htruth, withResult_word_zf]
  obtain ⟨hjif, _⟩ := jifJumpsOnZeroFlagOne target t
  rw [hjif, hzf]
  cases rel (s.word a) (s.word b) <;> rfl

end

/-- What every form of a comparison does: the store of the truth value of its relation (R150). -/
theorem exec_compareForms {rr : Word → Word → Instr} {forms : List (Word → Word → Instr)} {a : Word}
    (rel : Word → Word → Bool) (hrr : RunsAs (compareWords rel) .rr rr)
    (hforms : ∀ form ∈ forms, RunsAs (compareWords rel) .ri form) (ha : a ≠ 0xFFFF) (b : Word) (s : State) :
    let truth := fun v2 : Word =>
      let r := bit (rel (s.word a) v2)
      Host.Outcome.next (withResult s a r r 0)
    (b ≠ 0xFFFF → exec (rr a b) s = truth (s.word b)) ∧ ∀ form ∈ forms, exec (form a b) s = truth b :=
  exec_binaryForms hrr hforms (fun _ => rfl) ha fun v2 => writeTruth_of_fits ha (rel (s.word a) v2)

/-- Settles O19: CMP and CNT are the comparisons with equal and not equal. -/
theorem cmpAndCntStoreEquality : Obligations.CmpAndCntStoreEquality := by
  intro a b s ha
  obtain ⟨hcmpRR, hcmpForms⟩ := exec_compareForms (rr := .cmpRR) (fun v1 v2 => v1 = v2) (fun _ _ _ => rfl)
    cmpForms_runAs ha b s
  obtain ⟨hcntRR, hcntForms⟩ := exec_compareForms (rr := .cntRR) (fun v1 v2 => v1 ≠ v2) (fun _ _ _ => rfl)
    cntForms_runAs ha b s
  exact ⟨hcmpRR, hcmpForms, hcntRR, hcntForms⟩

/-- Settles O20: LGE and SME are the comparisons with the two unsigned orders. -/
theorem lgeAndSmeStoreUnsignedOrder : Obligations.LgeAndSmeStoreUnsignedOrder := by
  intro a b s ha
  obtain ⟨hlgeRR, hlgeForms⟩ := exec_compareForms (rr := .lgeRR) (fun v1 v2 => v2.toNat ≤ v1.toNat) (fun _ _ _ => rfl)
    lgeForms_runAs ha b s
  obtain ⟨hsmeRR, hsmeForms⟩ := exec_compareForms (rr := .smeRR) (fun v1 v2 => v1.toNat ≤ v2.toNat) (fun _ _ _ => rfl)
    smeForms_runAs ha b s
  exact ⟨hlgeRR, hlgeForms, hsmeRR, hsmeForms⟩

/-- Settles O41: in mode RR each of the four is `compareWords` with its relation. -/
theorem jifAfterComparisonFollowsTheRelation : Obligations.JifAfterComparisonFollowsTheRelation :=
  fun _ _ target _ _ =>
    ⟨jifI_after_compareWords (rel := fun v1 v2 => v1 = v2) target,
      jifI_after_compareWords (rel := fun v1 v2 => v1 ≠ v2) target,
      jifI_after_compareWords (rel := fun v1 v2 => v2.toNat ≤ v1.toNat) target,
      jifI_after_compareWords (rel := fun v1 v2 => v1.toNat ≤ v2.toNat) target⟩

end Sys2Proof.Machine
end

section
/-! The data movement family: POP (44_move_stack.md R162). -/

namespace Sys2Proof.Machine

/-- Settles O25: in each of its three modes POP is `popTo`. -/
theorem popStoresTopAndClearsIt : Obligations.PopStoresTopAndClearsIt := by
  intro a s hsp ha form hform
  rw [exec_pop hform, popTo_of_fits hsp ha, popped_eq_afterPop]

end Sys2Proof.Machine
end

section
/-! The exceptions family: the delivery step without a delivery (60_exceptions.md R198, R200; 92_eei_decisions.md D33,
D37). -/

namespace Sys2Proof.Machine

open Claims

/-- A delivery without room is a push's overflow in the state that the record has left. -/
theorem takeInterrupt_of_not_fits {s : State} (h : ¬ pushFits s) (r : Record) (rest : List Record) :
    takeInterrupt r rest s = overflowed { s with irq := rest } := by
  rw [takeInterrupt, stackPush_of_not_fits (s := s.withQueue rest) h]
  rfl

/-- Settles O52: the closed mark is tested first, then the queue, and the push of a delivery comes before its other
stores. -/
theorem deliveryWithoutRoomOrQueue : Obligations.DeliveryWithoutRoomOrQueue := by
  refine fun s => ⟨fun hclosed => if_pos hclosed,
    fun hopen hempty => updateInterrupts_eq_next.2 ⟨hopen, .inl ⟨hempty, rfl⟩⟩, fun r rest hopen hqueue hfits => ?_⟩
  rw [updateInterrupts_of_cons hopen hqueue, takeInterrupt_of_not_fits hfits]

end Sys2Proof.Machine
end

section
/-! The engine family: where a fetch stops short of an instruction (40_engine.md R101 to R106; 92_eei_decisions.md D11,
D12, D14 to D16). -/

namespace Sys2Proof

open Machine (highByte lowByte)

/-- A header outside the admitted pairs decodes with no operand words (R78 to R82). -/
theorem decodeFields_ne_ok {header : Word} (h : highByte header ∉ admittedModes (lowByte header)) (a b : Word)
    (i : Instr) : decodeFields header a b ≠ .ok i := by
  intro hok
  obtain ⟨m, op, hm, hop, hi⟩ := assemble_of_decodeFields hok
  rw [← Mode.toByte_of_ofByte hm, ← Opcode.toByte_of_ofByte hop] at h
  rw [assemble_eq_none_iff.2 h] at hi
  cases hi

end Sys2Proof

namespace Sys2Proof.Machine

open Claims

section
variable {s u : State} {m : Mode} {q : List Record}

theorem State.highByte_word (s : State) (a : Word) : highByte (s.word a) = s.byte a.toNat := by
  rw [s.word_eq_joinBytes, highByte_joinBytes]

theorem State.lowByte_word (s : State) (a : Word) : lowByte (s.word a) = s.byte (a.toNat + 1) := by
  rw [s.word_eq_joinBytes, lowByte_joinBytes]

@[simp] theorem State.byte_arriveEarly (s : State) (x : Nat) : s.arriveEarly.byte x = s.byte x :=
  congrArg (·.byteAt x) s.arriveEarly_mem

@[simp] theorem State.word_arriveEarly (s : State) (a : Word) : s.arriveEarly.word a = s.word a :=
  congrArg (·.wordAt a.toNat) s.arriveEarly_mem

@[simp] theorem State.cp_arriveEarly (s : State) : s.arriveEarly.cp = s.cp := s.word_arriveEarly cpCell

theorem FetchKeeps.keepsBytesBut (h : FetchKeeps q s u) : keepsBytesBut (bytesOf 0x0000) s u := by
  intro x hx
  have hcell : (0x0000 : Word).toNat = 0 := rfl
  simp only [bytesOf, hcell, List.mem_cons, List.not_mem_nil, or_false, not_or] at hx
  exact h.byte x (by omega)

/-! ### CP in the operand fetch -/

/-- Below the limit of R101 the next word's address does not wrap. -/
theorem toNat_cp_add_two (h : s.cp.toNat ≤ fetchLimit) : (s.cp + 2).toNat = s.cp.toNat + 2 :=
  BitVec.toNat_add_of_lt (Nat.lt_of_le_of_lt (Nat.add_le_add_right h 2) (by decide))

/-- The state after an operand word was fetched into args[k]. -/
def State.fetchedArg (s : State) (k : Nat) : State := (s.setCp (s.cp + 2)).latchArg k (s.word s.cp)

theorem State.cp_fetchedArg (s : State) (k : Nat) : (s.fetchedArg k).cp = s.cp + 2 := s.cp_setCp _

theorem fetchArgs_succ_of_le (h : s.cp.toNat ≤ fetchLimit) (n k : Nat) :
    fetchArgs (n + 1) k s = fetchArgs n (k + 1) (s.fetchedArg k) := by
  rw [fetchArgs, fetchWord_of_le h]
  rfl

theorem fetchArgs_succ_of_gt (h : fetchLimit < s.cp.toNat) (n k : Nat) :
    fetchArgs (n + 1) k s = .overrun (s.raise codeOverrun) := by
  rw [fetchArgs, fetchWord_of_gt h]

/-- Operand words that all start below the limit are fetched, and CP is past them. -/
theorem fetchArgs_done {n k : Nat} (h : s.cp.toNat + 2 * n ≤ 0xFFFF) :
    ∃ u, fetchArgs n k s = .done u ∧ u.cp = s.cp + BitVec.ofNat 16 (2 * n) := by
  induction n generalizing k s with
  | zero => exact ⟨s, rfl, (BitVec.add_zero _).symm⟩
  | succ n ih =>
    have hle : s.cp.toNat ≤ fetchLimit := by
      simp only [fetchLimit]
      omega
    obtain ⟨u, hu, hcp⟩ := ih (s := s.fetchedArg k) (k := k + 1) (by rw [s.cp_fetchedArg, toNat_cp_add_two hle]; omega)
    refine ⟨u, (fetchArgs_succ_of_le hle n k).trans hu, ?_⟩
    rw [hcp, s.cp_fetchedArg, add_two_add_ofNat, Nat.mul_succ, Nat.add_comm]

/-- An operand word that starts above the limit is not fetched, and CP stays at the first such address (D11). -/
theorem fetchArgs_overrun {n k : Nat} (h : 0xFFFF < s.cp.toNat + 2 * n) :
    ∃ u, fetchArgs n k s = .overrun u ∧ u.cp.toNat = 0xFFFE + s.cp.toNat % 2 := by
  have hlt := s.cp.isLt
  induction n generalizing k s with
  | zero => omega
  | succ n ih =>
    by_cases hgt : fetchLimit < s.cp.toNat
    · refine ⟨_, fetchArgs_succ_of_gt hgt n k, ?_⟩
      show s.cp.toNat = _
      simp only [fetchLimit] at hgt
      omega
    · have hle := Nat.not_lt.1 hgt
      have hnext : (s.fetchedArg k).cp.toNat = s.cp.toNat + 2 := by rw [s.cp_fetchedArg, toNat_cp_add_two hle]
      obtain ⟨u, hu, hcp⟩ := ih (s := s.fetchedArg k) (k := k + 1) (by omega) (BitVec.isLt _)
      refine ⟨u, (fetchArgs_succ_of_le hle n k).trans hu, ?_⟩
      rw [hcp, hnext, Nat.add_mod_right]

/-- What the operand fetch keeps when it fetched all its words. -/
theorem fetchKeeps_of_fetchArgs_done {n k : Nat} (h : fetchArgs n k s = .done u) : FetchKeeps [] s u := by
  obtain ⟨v, hv, hkeeps⟩ | ⟨v, hv, _⟩ := fetchArgs_cases n k s
  · rwa [FetchedArgs.done.inj (h.symm.trans hv)]
  · exact absurd (h.symm.trans hv) nofun

theorem fetchKeeps_of_fetchArgs_overrun {n k : Nat} (h : fetchArgs n k s = .overrun u) :
    FetchKeeps [codeOverrun] s u := by
  obtain ⟨v, hv, _⟩ | ⟨v, hv, hkeeps⟩ := fetchArgs_cases n k s
  · exact absurd (h.symm.trans hv) nofun
  · rwa [FetchedArgs.overrun.inj (h.symm.trans hv)]

/-! ### The fetch past the header -/

/-- The state after the header at CP was fetched and its fields latched (R102). -/
def State.headerFetched (s : State) : State :=
  ((s.setCp (s.cp + 2)).latchWord (s.word s.cp)).latchFields (s.word s.cp)

theorem State.cp_headerFetched (s : State) : s.headerFetched.cp = s.cp + 2 := s.cp_setCp _

theorem fetchKeeps_headerFetched (s : State) : FetchKeeps [] s s.headerFetched :=
  (fetchKeeps_setCp s _).trans (fetchKeeps_latchHeader _ _)

theorem fetchInstr_of_mode_unassigned (hcp : s.cp.toNat ≤ fetchLimit) (hm : Mode.ofByte (s.byte s.cp.toNat) = none) :
    fetchInstr s = .illegal (s.word s.cp) s.headerFetched := by
  rw [← s.highByte_word] at hm
  simp only [fetchInstr, fetchWord_of_le hcp, hm]
  rfl

theorem fetchInstr_of_args_overrun (hcp : s.cp.toNat ≤ fetchLimit) (hm : Mode.ofByte (s.byte s.cp.toNat) = some m)
    (hargs : fetchArgs m.operandCount 0 s.headerFetched = .overrun u) : fetchInstr s = .overrun u := by
  rw [← s.highByte_word] at hm
  rw [State.headerFetched] at hargs
  simp only [fetchInstr, fetchWord_of_le hcp, hm, hargs]

theorem fetchInstr_of_pair_unadmitted (hcp : s.cp.toNat ≤ fetchLimit) (hm : Mode.ofByte (s.byte s.cp.toNat) = some m)
    (hpair : s.byte s.cp.toNat ∉ admittedModes (s.byte (s.cp.toNat + 1)))
    (hargs : fetchArgs m.operandCount 0 s.headerFetched = .done u) : fetchInstr s = .illegal (s.word s.cp) u := by
  rw [← s.highByte_word, ← s.lowByte_word] at hpair
  rw [← s.highByte_word] at hm
  rw [State.headerFetched] at hargs
  simp only [fetchInstr, fetchWord_of_le hcp, hm, hargs]
  cases hdecode : decodeFields (s.word s.cp) u.latches.arg0 u.latches.arg1 with
  | ok i => exact absurd hdecode (decodeFields_ne_ok hpair _ _ i)
  | error _ => rfl

/-! ### The cycle -/

theorem step_of_running (h : s.status = .running) : step s = runFetched (fetchInstr s.arriveEarly) := by
  rw [step, h]
  rfl

/-- A fetch that ends in an illegal header ends the run, with nothing done but the fetch (R106). -/
theorem step_of_fetch_illegal {header : Word} (hs : s.status = .running)
    (hfetch : fetchInstr s.arriveEarly = .illegal header u) (hkeeps : FetchKeeps [] s.arriveEarly u) :
    ∃ left, step s = .fault (.fatalError (.illegalInstruction header) left) ∧
      left.status = .fatal (.illegalInstruction header) ∧ left.cp = u.cp ∧ left.irq = s.arriveEarly.irq ∧
      keepsBytesBut (bytesOf 0x0000) s left := by
  refine ⟨u.failed (.illegalInstruction header), ?_, rfl, rfl, hkeeps.irq.trans (List.append_nil _), fun x hx => ?_⟩
  · rw [step_of_running hs, hfetch]
    rfl
  · exact (hkeeps.keepsBytesBut x hx).trans (s.byte_arriveEarly x)

end

/-- Settles O47: an operand word starts above the limit, and past that overrun the cycle runs no instruction. -/
theorem operandOverrunAbandonsTheInstruction : Obligations.OperandOverrunAbandonsTheInstruction := by
  intro s m hs hcp hm hover
  have hcp' : s.arriveEarly.cp.toNat ≤ fetchLimit := by rwa [s.cp_arriveEarly]
  have hm' : Mode.ofByte (s.arriveEarly.byte s.arriveEarly.cp.toNat) = some m := by
    rwa [s.byte_arriveEarly, s.cp_arriveEarly]
  have hnext : s.arriveEarly.headerFetched.cp.toNat = s.cp.toNat + 2 := by
    rw [State.cp_headerFetched, toNat_cp_add_two hcp', s.cp_arriveEarly]
  obtain ⟨u, hargs, hend⟩ := fetchArgs_overrun (s := s.arriveEarly.headerFetched) (n := m.operandCount) (k := 0)
    (by omega)
  have hkeeps := (fetchKeeps_headerFetched s.arriveEarly).trans (fetchKeeps_of_fetchArgs_overrun hargs)
  refine ⟨u.stopRunning, ?_, rfl, hkeeps.status.trans (s.arriveEarly_status.trans hs), ?_, hkeeps.irq, hkeeps.irqClosed,
    hkeeps.inputs.trans s.arriveEarly_inputs, fun x hx => ?_⟩
  · rw [step_of_running hs, fetchInstr_of_args_overrun hcp' hm' hargs]
    rfl
  · rw [← Nat.add_mod_right s.cp.toNat 2, ← hnext]
    exact hend
  · exact (hkeeps.keepsBytesBut x hx).trans (s.byte_arriveEarly x)

/-- Settles O48: the mode is checked past the header, the pair past the operand words. -/
theorem illegalHeaderIsFatal : Obligations.IllegalHeaderIsFatal := by
  intro s hs hcp stopsAt
  have hcp' : s.arriveEarly.cp.toNat ≤ fetchLimit := by rwa [s.cp_arriveEarly]
  refine ⟨fun hmode => ?_, fun m hm hfits hpair => ?_⟩
  · have hfetch := fetchInstr_of_mode_unassigned hcp' (by simpa using Mode.ofByte_eq_none.2 hmode)
    have hstop := step_of_fetch_illegal hs hfetch (fetchKeeps_headerFetched _)
    rwa [State.cp_headerFetched, s.cp_arriveEarly, s.word_arriveEarly] at hstop
  · have hnext : s.arriveEarly.headerFetched.cp.toNat = s.cp.toNat + 2 := by
      rw [State.cp_headerFetched, toNat_cp_add_two hcp', s.cp_arriveEarly]
    obtain ⟨u, hargs, hend⟩ := fetchArgs_done (s := s.arriveEarly.headerFetched) (n := m.operandCount) (k := 0)
      (by omega)
    have hfetch := fetchInstr_of_pair_unadmitted hcp' (by simpa using hm) (by simpa using hpair) hargs
    have hstop := step_of_fetch_illegal hs hfetch
      ((fetchKeeps_headerFetched _).trans (fetchKeeps_of_fetchArgs_done hargs))
    rwa [hend, State.cp_headerFetched, add_two_add_ofNat, s.cp_arriveEarly, s.word_arriveEarly] at hstop

end Sys2Proof.Machine
end

section
/-! The encoding family: the encodings of some of the spec's examples (30_encoding.md R70; 95_test_vectors.md). -/

namespace Sys2Proof

/-- Bits whose bytes begin with the encoding of an instruction decode to it. -/
theorem decodeTableWord_of_encoding {nbits w : Nat} {i : Instr} (rest : List Byte)
    (h : tableBytes nbits w = encodeBytes i ++ rest) : decodeTableWord nbits w = some i := by
  rw [decodeTableWord, h, decode_encodeBytes_append]

/-- Settles O3: each word is the encoding of its instruction, padded with zero bytes to six. -/
theorem specWordsDecode : Obligations.SpecWordsDecode :=
  ⟨decodeTableWord_of_encoding [] (by decide), decodeTableWord_of_encoding [0, 0] (by decide),
    decodeTableWord_of_encoding [] (by decide), decodeTableWord_of_encoding [] (by decide),
    decodeTableWord_of_encoding [0, 0] (by decide), decodeTableWord_of_encoding [0, 0, 0, 0] (by decide)⟩

end Sys2Proof
end

section
/-! The state family: the bytes of memory after boot (10_state.md R38). -/

namespace Sys2Proof.Machine

/-- Where no listed word puts another byte, boot leaves 0. -/
theorem bootByteOf_eq_zero {ws : List (Nat × Word)} {a : Nat}
    (h : ∀ p ∈ ws, (a = p.1 → highByte p.2 = 0) ∧ (a = p.1 + 1 → lowByte p.2 = 0)) : bootByteOf ws a = 0 := by
  induction ws with
  | nil => rfl
  | cons p rest ih =>
    obtain ⟨⟨hhigh, hlow⟩, hrest⟩ := List.forall_mem_cons.1 h
    rw [bootByteOf]
    split_ifs with h1 h2
    · exact hhigh h1
    · exact hlow h2
    · exact ih hrest

/-- The bytes of the five boot words that are not 0 stand at six addresses. -/
theorem bootByte_eq_zero {a : Nat} (h : a ∉ [0x0000, 0x0002, 0x0010, 0x0011, 0x1FFF, 0x2001]) : bootByte a = 0 := by
  simp only [List.mem_cons, List.not_mem_nil, or_false, not_or] at h
  obtain ⟨hcp, hsp, hinterruptHigh, hinterruptLow, hmode, hsentinel⟩ := h
  refine bootByteOf_eq_zero fun p hp => ?_
  simp only [bootWords, List.mem_cons, List.not_mem_nil, or_false] at hp
  obtain rfl | rfl | rfl | rfl | rfl := hp
  · exact ⟨fun ha => absurd ha hcp, fun _ => rfl⟩
  · exact ⟨fun ha => absurd ha hsp, fun _ => rfl⟩
  · exact ⟨fun ha => absurd ha hinterruptHigh, fun ha => absurd ha hinterruptLow⟩
  · exact ⟨fun _ => rfl, fun ha => absurd ha hmode⟩
  · exact ⟨fun _ => rfl, fun ha => absurd ha hsentinel⟩

theorem paletteIndex_eq_none {a : Nat} (h : a < 0x1F00 ∨ 0x1F10 ≤ a) : paletteIndex a = none :=
  dif_neg (by simp only [outColors]; omega)

theorem State.byte_reset_of_not_palette {a : Nat} (h : paletteIndex a = none) : State.reset.byte a = bootByte a :=
  Memory.atReset.byteAt_of_not_palette h

theorem State.byte_reset_palette (k : Fin 16) : State.reset.byte (outColors + k) = Config.paletteInit k := by
  refine (Memory.atReset.byteAt_palette k).trans ?_
  fin_cases k <;> rfl

/-- Settles O56: the five words are those boot writes, the palette is the open parameter, and no other byte is listed. -/
theorem resetWordsAndBytes : Obligations.ResetWordsAndBytes := by
  refine ⟨by decide, by decide, by decide, by decide, by decide, fun k hk => State.byte_reset_palette ⟨k, hk⟩,
    fun x _ hx hpalette => ?_, rfl, rfl, rfl, rfl, rfl⟩
  rw [State.byte_reset_of_not_palette (paletteIndex_eq_none hpalette), bootByte_eq_zero hx]

end Sys2Proof.Machine
end
